-- ==== Sys2Proof/Word.lean ====
section
/-!
DEFINITION. The word types of the TGUI accelerator block and their plainest names (spec/00_scope.md R11, R13).
Byte order and field extraction, which a repair may have to mend, are in Machine/Operands.lean.
-/

namespace Sys2Proof

/-- `u8`: one byte of a register, of video memory or of a host transaction (R11). -/
abbrev Byte := BitVec 8

/-- `u16`: an I/O port number or a stored geometry register (R11, R23). -/
abbrev Half := BitVec 16

/-- `u32` (and `i32`, read with the signed comparisons): colours, flags, offsets, cursors, addresses (R11, R225). -/
abbrev Word := BitVec 32

end Sys2Proof
end

