-- ==== Sys2Proof/Config.lean ====
section
/-!
DEFINITION. The configuration record of spec/00_scope.md R9: what one instance of the block fixes at device attach and
never changes afterwards (R290), with the reference values of the spec. The record is plain data, so that a statement
about every state is a statement about every configuration (notes/assumptions/1.md). The free values of the spec
(`draw()`, R12) are constants with no body.
-/

namespace Sys2Proof

/-- The chip generation `type`, ordered `Gen0 < Gen1 < Gen2 < Gen3` (R3). -/
inductive Gen where
  | gen0 | gen1 | gen2 | gen3
  deriving DecidableEq, Repr

/-- The place of a generation in the order of R3. -/
def Gen.rank : Gen → Nat
  | .gen0 => 0
  | .gen1 => 1
  | .gen2 => 2
  | .gen3 => 3

/-- Installed video memory: 1, 2 or 4 MiB (R9 `VRAM_SIZE`, D5). -/
inductive VramSize where
  | mib1 | mib2 | mib4
  deriving DecidableEq, Repr

/-- `VRAM_SIZE` in bytes (R9). -/
def VramSize.bytes : VramSize → Nat
  | .mib1 => 0x100000
  | .mib2 => 0x200000
  | .mib4 => 0x400000

/-- The three VGA-compatible register banks (R32). -/
inductive Bank where
  | crtc | seq | gdc
  deriving DecidableEq, Repr

/-- Where a mapping-control field lives: a bank, an index in it and the field's lowest bit (R34, R110). -/
structure BitLoc where
  bank  : Bank
  index : Byte
  lo    : Nat
  deriving DecidableEq, Repr

/-- The Gen0 write sub-modes (R34, R188). -/
inductive SubMode where
  | normal | mono | latch
  deriving DecidableEq, Repr

/-- A binding of `gen0_submode`: a two-bit location and the sub-modes of its values 1, 2 and 3; the value 0 is
`normal` (R34: a zero bank gives `normal`). notes/assumptions/10.md. -/
structure SubModeLoc where
  loc   : BitLoc
  one   : SubMode
  two   : SubMode
  three : SubMode
  deriving DecidableEq, Repr

/-- `BINDING` (R9, R110, D17): the location of each mapping-control field and the two bank-register ports. -/
structure Binding where
  linEn     : BitLoc
  mapSel    : BitLoc
  accelSel  : BitLoc
  mmioEn    : BitLoc
  subMode   : Option SubModeLoc
  wbankPort : Half
  rbankPort : Half
  deriving DecidableEq, Repr

/-- `TIMING_INDICES` (R9, R157): every CRTC index, or a listed set. -/
inductive IndexSet where
  | all
  | only (is : List Byte)
  deriving DecidableEq, Repr

/-- The configuration record of R9. `hasMmio` is the value of `HAS_MMIO(type)` for this instance's own generation; the
three `gen0…Given` flags say whether the configuration supplies the Gen0 access function of that name (R188, D24);
`vramInit` is `VRAM_INIT`, the contents of video memory at `reset()`, every unlisted byte being 0x00 (R38, D27). -/
structure Config where
  gen                 : Gen
  vramSize            : VramSize
  isPci               : Bool
  vlbLinearBase       : Word
  geBase              : Word
  fastlineMinGen      : Gen
  hasMmio             : Bool
  undecodedRead       : Byte
  accelFixedBase1     : Word
  accelFixedBase2     : Word
  accelApertureSize   : Word
  accelInBanked       : Bool
  bankGranule         : Word
  feedBanked          : Bool
  feedLinear          : Bool
  binding             : Binding
  timingIndices       : IndexSet
  gen0MonoWriteGiven  : Bool
  gen0LatchWriteGiven : Bool
  gen0LatchReadGiven  : Bool
  vramInit            : List Host.Cell
  deriving DecidableEq, Repr

/-- The reference `BINDING` of R110 and D17. -/
def Binding.reference : Binding where
  linEn     := ⟨.crtc, 0x21, 5⟩
  mapSel    := ⟨.gdc, 0x06, 2⟩
  accelSel  := ⟨.crtc, 0x36, 0⟩
  mmioEn    := ⟨.crtc, 0x39, 0⟩
  subMode   := none
  wbankPort := 0x3D8
  rbankPort := 0x3D9

/-- The reference values of R9 and spec/93_implementation_defined.md Part 3 for a generation and a bus attachment. The
bases the spec leaves OPEN without a reference value (`VLB_LINEAR_BASE`, `GE_BASE`) are 0 (notes/assumptions/1.md). -/
def Config.referenceFor (gen : Gen) (isPci : Bool) : Config where
  gen                 := gen
  vramSize            := .mib1
  isPci               := isPci
  vlbLinearBase       := 0
  geBase              := 0
  fastlineMinGen      := .gen2
  hasMmio             := decide (1 ≤ gen.rank)
  undecodedRead       := 0xFF
  accelFixedBase1     := 0xB4000
  accelFixedBase2     := 0xBC000
  accelApertureSize   := 0x4000
  accelInBanked       := true
  bankGranule         := 0x10000
  feedBanked          := true
  feedLinear          := true
  binding             := Binding.reference
  timingIndices       := .all
  gen0MonoWriteGiven  := false
  gen0LatchWriteGiven := false
  gen0LatchReadGiven  := false
  vramInit            := []

/-- The reference configuration of spec/95_test_vectors.md section 1: Gen2, PCI, 1 MiB. -/
def Config.reference : Config := Config.referenceFor .gen2 true

/-- The free byte of `draw()` (R12): what byte `k` of the read transaction number `n` returns where the spec fixes no
value (R152, R156, R154 and R187 unclaimed bytes). No body: nothing can be proved of its value
(notes/assumptions/5.md). -/
opaque Config.freeByte : Nat → Nat → Byte

end Sys2Proof
end

