-- ==== Sys2Proof/Syntax.lean ====
section
/-!
DEFINITION. The instructions of the block, one constructor for each mnemonic of spec/opcode_table.json, and the
transaction record a decoder reads. The block fetches no instruction words (spec/10_state.md R21): its "instructions" are
command codes, window byte accesses, I/O port bytes, host transactions and collaborator events (spec/30_encoding.md R90,
R91, R94, R104, R109).
-/

namespace Sys2Proof

/-- The width `n` ∈ {1, 2, 4} of a host transaction (R71, R90). -/
inductive Width where
  | b1 | b2 | b4
  deriving DecidableEq, Repr

/-- The direction of an I/O port byte access: R109 gives every port a write and a read. -/
inductive PortOp where
  | write (v : Byte)
  | read
  deriving DecidableEq, Repr

/-- The instructions: the eleven command rows (format `command` and `command+flags`), `FEED`, the window byte writes,
the window byte reads, the host transactions, the I/O port bytes and the events. A multi-byte register's write carries
the byte lane its offset selects (R93) and the byte. -/
inductive Instr where
  | bitblt
  | bitbltDisplay
  | bitbltPattern
  | bitbltCpuNative
  | bitbltCpuMono
  | bitbltZeroStream
  | scanline
  | bresenham
  | shortvec
  | fastline
  | nopCmd (code : Byte)
  | feed (addr : Word) (n : Width) (v : Word)
  | wrCommand (b : Byte)
  | wrCommandRop (v : Word)
  | wrRop (b : Byte)
  | wrFlags (lane : BitVec 2) (b : Byte)
  | wrFgCol (lane : BitVec 2) (b : Byte)
  | wrBgCol (lane : BitVec 2) (b : Byte)
  | wrDstX (lane : BitVec 1) (b : Byte)
  | wrDstY (lane : BitVec 1) (b : Byte)
  | wrSrcX (lane : BitVec 1) (b : Byte)
  | wrSrcY (lane : BitVec 1) (b : Byte)
  | wrSizeX (lane : BitVec 1) (b : Byte)
  | wrSizeY (lane : BitVec 1) (b : Byte)
  | wrStyle (lane : BitVec 2) (b : Byte)
  | wrClipLeft (lane : BitVec 1) (b : Byte)
  | wrClipTop (lane : BitVec 1) (b : Byte)
  | wrClipRight (lane : BitVec 1) (b : Byte)
  | wrClipBottom (lane : BitVec 1) (b : Byte)
  | wrCkey (lane : BitVec 2) (b : Byte)
  | wrFgColMirror (lane : BitVec 2) (b : Byte)
  | wrBgColMirror (lane : BitVec 2) (b : Byte)
  | wrPattern (j : BitVec 7) (b : Byte)
  | wrUndecoded (o : Byte) (b : Byte)
  | rdWindow (o : Byte)
  | rdUndecoded (o : Byte)
  | ioWrite (port : Half) (n : Width) (v : Word)
  | ioRead (port : Half) (n : Width)
  | memWrite (addr : Word) (n : Width) (v : Word)
  | memRead (addr : Word) (n : Width)
  | portSeqIdx (op : PortOp)
  | portSeqData (op : PortOp)
  | portGdcIdx (op : PortOp)
  | portGdcData (op : PortOp)
  | portCrtcIdx (op : PortOp)
  | portCrtcData (op : PortOp)
  | portWbank (op : PortOp)
  | portRbank (op : PortOp)
  | modeUpdate (dispBpp : Word) (rowOffset : Word)
  | pciSetMemEnable (b : Bool)
  | pciSetBar (k : Byte) (base : Word)
  | clearDirty (page : Word)
  | reset
  deriving DecidableEq, Repr

/-- The kind of a transaction record: the "format" of the opcode table's rows, the transaction kinds of R90 and the
events of R91 and R290. `tableWord` is a bare word of the opcode table with no format beside it
(notes/assumptions/3.md). -/
inductive TxKind where
  | tableWord
  | command | commandFlags
  | windowWrite | windowLong | windowRead
  | portWrite | portRead
  | ioWrite | ioRead | memWrite | memRead | feed
  | modeUpdate | pciSetMemEnable | pciSetBar | clearDirty
  | reset
  deriving DecidableEq, Repr

/-- One transaction as it stands on the bus, before decoding. `key` is what the opcode table matches (a command code, a
window offset, a port number, a BAR number), `n` the raw width, `value` the data (or the first event argument), `addr`
the physical address (or the second event argument). A field a kind does not use is zero. -/
structure Tx where
  kind  : TxKind
  key   : Half
  n     : Byte
  value : Word
  addr  : Word
  deriving DecidableEq, Repr

end Sys2Proof
end

