-- ==== Sys2Proof/WellFormed.lean ====
section
/-!
DEFINITION. The checks on an instruction's operands: the ranges the opcode table's rows give (spec/30_encoding.md R90,
R94, R98, R104).
-/

namespace Sys2Proof

/-- The number of bytes of a width (R90). -/
def Width.bytes : Width → Nat
  | .b1 => 1
  | .b2 => 2
  | .b4 => 4

/-- A datum of `n` bytes fits in its `8n` bits (R90). -/
def fitsWidth (n : Width) (v : Word) : Bool := decide (v.toNat < 2 ^ (8 * n.bytes))

/-- The reserved and undecoded window offsets of R98. -/
def undecodedOffset (o : Byte) : Bool :=
  let k := o.toNat
  k ≤ 0x23 || k == 0x25 || k == 0x26 || (0x34 ≤ k && k ≤ 0x37) || (0x50 ≤ k && k ≤ 0x67) ||
    (0x6C ≤ k && k ≤ 0x77)

/-- The command codes that name a command of their own (R104). -/
def namedCommandCode (c : Byte) : Bool := c == 1 || c == 3 || c == 4 || c == 5 || c == 6

/-- The well-formedness of an instruction: `NOP_CMD` carries a code no other row names (R104, R260), a host write's
datum fits its width (R90), the undecoded rows carry an undecoded offset and the window read a decoded one (R98). -/
def WellFormed : Instr → Bool
  | .nopCmd code => !namedCommandCode code
  | .feed _ n v => fitsWidth n v
  | .wrUndecoded o _ => undecodedOffset o
  | .rdWindow o => !undecodedOffset o
  | .rdUndecoded o => undecodedOffset o
  | .ioWrite _ n v => fitsWidth n v
  | .memWrite _ n v => fitsWidth n v
  | .bitblt | .bitbltDisplay | .bitbltPattern | .bitbltCpuNative | .bitbltCpuMono | .bitbltZeroStream => true
  | .scanline | .bresenham | .shortvec | .fastline => true
  | .wrCommand _ | .wrCommandRop _ | .wrRop _ => true
  | .wrFlags _ _ | .wrFgCol _ _ | .wrBgCol _ _ | .wrStyle _ _ | .wrCkey _ _ => true
  | .wrFgColMirror _ _ | .wrBgColMirror _ _ => true
  | .wrDstX _ _ | .wrDstY _ _ | .wrSrcX _ _ | .wrSrcY _ _ | .wrSizeX _ _ | .wrSizeY _ _ => true
  | .wrClipLeft _ _ | .wrClipTop _ _ | .wrClipRight _ _ | .wrClipBottom _ _ => true
  | .wrPattern _ _ => true
  | .ioRead _ _ | .memRead _ _ => true
  | .portSeqIdx _ | .portSeqData _ | .portGdcIdx _ | .portGdcData _ => true
  | .portCrtcIdx _ | .portCrtcData _ | .portWbank _ | .portRbank _ => true
  | .modeUpdate _ _ | .pciSetMemEnable _ | .pciSetBar _ _ | .clearDirty _ | .reset => true

end Sys2Proof
end

