-- ==== Sys2Proof/Decode.lean ====
section
/-!
DEFINITION. The decoder and the encoder of transaction records (spec/30_encoding.md R90, R91, R94, R98, R104, R109 and
spec/opcode_table.json). The spec gives no instruction words; the record and the way a bare table word is read are the
model's own (notes/assumptions/3.md). Decoding is total: a record that is no transaction of the spec is rejected by name.
-/

namespace Sys2Proof

/-- Why a record is no transaction of the spec. -/
inductive DecodeError where
  /-- no row of the opcode table matches the bare word -/
  | unknownTableWord
  /-- the flag fields of a `command+flags` record select no row of R231 to R235 -/
  | unknownCommandForm
  /-- a window access whose key is no window offset 0x00–0xFF (R92) -/
  | badOffset
  /-- a window long write whose offset is not 0x24 (R142) -/
  | badLongOffset
  /-- an I/O port byte that is no port of R109 -/
  | unknownPort
  /-- a width other than 1, 2 and 4 (R71) -/
  | badWidth
  /-- a datum that does not fit its width (R90) -/
  | valueTooWide
  /-- a field the record's kind does not use is not zero -/
  | strayField
  deriving DecidableEq, Repr

/-- The rows of the opcode table that have a match and a mask (the forms of BITBLT, which share its code, apart). -/
inductive RowName where
  | bitblt | scanline | bresenham | shortvec | fastline | nopCmd
  | wrCommand | wrRop | wrFlags | wrFgCol | wrBgCol | wrDstX | wrDstY | wrSrcX | wrSrcY | wrSizeX | wrSizeY
  | wrStyle | wrClipLeft | wrClipTop | wrClipRight | wrClipBottom | wrCkey | wrFgColMirror | wrBgColMirror | wrPattern
  | portSeqIdx | portSeqData | portGdcIdx | portGdcData | portCrtcIdx | portCrtcData | portWbank | portRbank
  deriving DecidableEq, Repr

/-- One row of the opcode table: the bits that must stand in the word, and their places. -/
structure Row where
  mask : Half
  pat  : Half
  row  : RowName
  deriving DecidableEq, Repr

/-- The word `k` matches the row. -/
def Row.hits (r : Row) (k : Half) : Bool := k &&& r.mask == r.pat

/-- The first row of a list that a word matches. -/
def findRow (rows : List Row) (k : Half) : Option RowName := (rows.find? (fun r => r.hits k)).map Row.row

/-- The five named command codes (R104). -/
def commandRows : List Row :=
  [ ⟨0xFFFF, 0x01, .bitblt⟩, ⟨0xFFFF, 0x03, .scanline⟩, ⟨0xFFFF, 0x04, .bresenham⟩, ⟨0xFFFF, 0x05, .shortvec⟩,
    ⟨0xFFFF, 0x06, .fastline⟩ ]

/-- The eight `NOP_CMD` rows: every other command code (R104, R105, R260). -/
def nopRows : List Row :=
  [ ⟨0xFFFF, 0x00, .nopCmd⟩, ⟨0xFFFF, 0x02, .nopCmd⟩, ⟨0xFFFF, 0x07, .nopCmd⟩, ⟨0xFFF8, 0x08, .nopCmd⟩,
    ⟨0xFFF0, 0x10, .nopCmd⟩, ⟨0xFFE0, 0x20, .nopCmd⟩, ⟨0xFFC0, 0x40, .nopCmd⟩, ⟨0xFF80, 0x80, .nopCmd⟩ ]

/-- The decoded window offsets of R94, one row for each register or mirror. -/
def writeRows : List Row :=
  [ ⟨0xFFFF, 0x24, .wrCommand⟩, ⟨0xFFFF, 0x27, .wrRop⟩, ⟨0xFFFC, 0x28, .wrFlags⟩, ⟨0xFFFC, 0x2C, .wrFgCol⟩,
    ⟨0xFFFC, 0x30, .wrBgCol⟩, ⟨0xFFFE, 0x38, .wrDstX⟩, ⟨0xFFFE, 0x3A, .wrDstY⟩, ⟨0xFFFE, 0x3C, .wrSrcX⟩,
    ⟨0xFFFE, 0x3E, .wrSrcY⟩, ⟨0xFFFE, 0x40, .wrSizeX⟩, ⟨0xFFFE, 0x42, .wrSizeY⟩, ⟨0xFFFC, 0x44, .wrStyle⟩,
    ⟨0xFFFE, 0x48, .wrClipLeft⟩, ⟨0xFFFE, 0x4A, .wrClipTop⟩, ⟨0xFFFE, 0x4C, .wrClipRight⟩,
    ⟨0xFFFE, 0x4E, .wrClipBottom⟩, ⟨0xFFFC, 0x68, .wrCkey⟩, ⟨0xFFFC, 0x78, .wrFgColMirror⟩,
    ⟨0xFFFC, 0x7C, .wrBgColMirror⟩, ⟨0xFF80, 0x80, .wrPattern⟩ ]

/-- The ports of R109, the bank registers at their reference ports. -/
def portRows : List Row :=
  [ ⟨0xFFFF, 0x3C4, .portSeqIdx⟩, ⟨0xFFFF, 0x3C5, .portSeqData⟩, ⟨0xFFFF, 0x3CE, .portGdcIdx⟩,
    ⟨0xFFFF, 0x3CF, .portGdcData⟩, ⟨0xFFFF, 0x3D4, .portCrtcIdx⟩, ⟨0xFFFF, 0x3D5, .portCrtcData⟩,
    ⟨0xFFFF, 0x3D8, .portWbank⟩, ⟨0xFFFF, 0x3D9, .portRbank⟩ ]

/-- The bit the table's reader made a field named `sext` of, from the extension width 13 or 14 of the three
sign-extended registers. It is no bit of an offset; a bare word may carry it and it selects nothing. -/
def sextBit : RowName → Half
  | .wrSrcX => 0x2000
  | .wrSrcY => 0x2000
  | .wrSizeX => 0x4000
  | _ => 0

/-- A row as a bare word of the opcode table is read against it. -/
def Row.asTableWord (r : Row) : Row := { r with mask := r.mask &&& ~~~(sextBit r.row) }

/-- The rows a bare word is read against: every row that fixes its bits, `NOP_CMD` last, since R104 gives it "any
other" code. -/
def tableRows : List Row := portRows ++ commandRows ++ writeRows.map Row.asTableWord ++ nopRows

/-- The command instruction of a row, from the code byte. -/
def commandOf (r : RowName) (code : Byte) : Option Instr :=
  match r with
  | .bitblt => some .bitblt
  | .scanline => some .scanline
  | .bresenham => some .bresenham
  | .shortvec => some .shortvec
  | .fastline => some .fastline
  | .nopCmd => some (.nopCmd code)
  | _ => none

/-- The window write of a row: the byte lane (or the pattern cell) stands in the offset's low bits. -/
def writeOf (r : RowName) (k : Half) (b : Byte) : Option Instr :=
  match r with
  | .wrCommand => some (.wrCommand b)
  | .wrRop => some (.wrRop b)
  | .wrFlags => some (.wrFlags (k.setWidth 2) b)
  | .wrFgCol => some (.wrFgCol (k.setWidth 2) b)
  | .wrBgCol => some (.wrBgCol (k.setWidth 2) b)
  | .wrDstX => some (.wrDstX (k.setWidth 1) b)
  | .wrDstY => some (.wrDstY (k.setWidth 1) b)
  | .wrSrcX => some (.wrSrcX (k.setWidth 1) b)
  | .wrSrcY => some (.wrSrcY (k.setWidth 1) b)
  | .wrSizeX => some (.wrSizeX (k.setWidth 1) b)
  | .wrSizeY => some (.wrSizeY (k.setWidth 1) b)
  | .wrStyle => some (.wrStyle (k.setWidth 2) b)
  | .wrClipLeft => some (.wrClipLeft (k.setWidth 1) b)
  | .wrClipTop => some (.wrClipTop (k.setWidth 1) b)
  | .wrClipRight => some (.wrClipRight (k.setWidth 1) b)
  | .wrClipBottom => some (.wrClipBottom (k.setWidth 1) b)
  | .wrCkey => some (.wrCkey (k.setWidth 2) b)
  | .wrFgColMirror => some (.wrFgColMirror (k.setWidth 2) b)
  | .wrBgColMirror => some (.wrBgColMirror (k.setWidth 2) b)
  | .wrPattern => some (.wrPattern (k.setWidth 7) b)
  | _ => none

/-- The I/O port byte of a row. -/
def portOf (r : RowName) (op : PortOp) : Option Instr :=
  match r with
  | .portSeqIdx => some (.portSeqIdx op)
  | .portSeqData => some (.portSeqData op)
  | .portGdcIdx => some (.portGdcIdx op)
  | .portGdcData => some (.portGdcData op)
  | .portCrtcIdx => some (.portCrtcIdx op)
  | .portCrtcData => some (.portCrtcData op)
  | .portWbank => some (.portWbank op)
  | .portRbank => some (.portRbank op)
  | _ => none

/-- The flag fields of the five forms of BITBLT: the `flags` word with `SRCPAT` at bit 1, `SRCDISP` at bit 2 and
`SRCMONO` at bit 6 (R100), and whether `use_src` is nonzero. -/
def commandFlagsForms : List (Word × Byte × Instr) :=
  [ (0x04, 0, .bitbltDisplay), (0x02, 0, .bitbltPattern), (0x00, 1, .bitbltCpuNative), (0x40, 1, .bitbltCpuMono),
    (0x00, 0, .bitbltZeroStream) ]

/-- The raw width of a transaction (R71). -/
def widthOf (n : Byte) : Option Width :=
  if n = 1 then some .b1 else if n = 2 then some .b2 else if n = 4 then some .b4 else none

/-- The raw width of a width. -/
def Width.raw : Width → Byte
  | .b1 => 1
  | .b2 => 2
  | .b4 => 4

/-- A found instruction, or a rejection by name. -/
def orReject (e : DecodeError) : Option Instr → Except DecodeError Instr
  | some i => .ok i
  | none => .error e

/-- A record of one byte of data. -/
def withByte (v : Word) (f : Byte → Except DecodeError Instr) : Except DecodeError Instr :=
  if v.toNat < 256 then f (v.setWidth 8) else .error .valueTooWide

/-- A record of a transaction of width 1, 2 or 4. -/
def withWidth (n : Byte) (f : Width → Except DecodeError Instr) : Except DecodeError Instr :=
  match widthOf n with
  | some w => f w
  | none => .error .badWidth

/-- A record of a host write, whose datum must fit. -/
def withDatum (n : Byte) (v : Word) (f : Width → Except DecodeError Instr) : Except DecodeError Instr :=
  withWidth n (fun w => if fitsWidth w v then f w else .error .valueTooWide)

/-- A record some of whose fields must be zero. -/
def whenZero (b : Bool) (r : Except DecodeError Instr) : Except DecodeError Instr :=
  if b then r else .error .strayField

/-- A bare word of the opcode table: a command row carries no operand, a window or port row one data byte. -/
def decodeTable (k : Half) (v : Word) : Except DecodeError Instr :=
  match findRow tableRows k with
  | none => .error .unknownTableWord
  | some r =>
    match commandOf r (k.setWidth 8) with
    | some i => whenZero (v == 0) (.ok i)
    | none => withByte v (fun b =>
        match writeOf r k b with
        | some i => .ok i
        | none => orReject .unknownTableWord (portOf r (.write b)))

/-- A window byte write at any offset (R140): a register row, or an undecoded offset (R98). -/
def decodeWindowWrite (k : Half) (b : Byte) : Except DecodeError Instr :=
  match findRow writeRows k with
  | some r => orReject .badOffset (writeOf r k b)
  | none => if k.toNat < 256 && undecodedOffset (k.setWidth 8) then .ok (.wrUndecoded (k.setWidth 8) b) else .error .badOffset

/-- A window byte read at any offset (R149, R153). -/
def decodeWindowRead (k : Half) : Except DecodeError Instr :=
  if k.toNat < 256 then
    if undecodedOffset (k.setWidth 8) then .ok (.rdUndecoded (k.setWidth 8)) else .ok (.rdWindow (k.setWidth 8))
  else .error .badOffset

/-- The decoder. -/
def decode (t : Tx) : Except DecodeError Instr :=
  match t.kind with
  | .tableWord => whenZero (t.n == 0 && t.addr == 0) (decodeTable t.key t.value)
  | .command =>
    whenZero (t.n == 0 && t.value == 0 && t.addr == 0)
      (orReject .badOffset ((findRow (commandRows ++ nopRows) t.key).bind (fun r => commandOf r (t.key.setWidth 8))))
  | .commandFlags =>
    whenZero (t.addr == 0 && t.key == 1)
      (orReject .unknownCommandForm
        ((commandFlagsForms.find? (fun f => f.1 == t.value && f.2.1 == t.n)).map (fun f => f.2.2)))
  | .windowWrite =>
    if t.n == 1 then whenZero (t.addr == 0) (withByte t.value (decodeWindowWrite t.key)) else .error .badWidth
  | .windowLong =>
    if t.n == 4 then
      whenZero (t.addr == 0) (if t.key == 0x24 then .ok (.wrCommandRop t.value) else .error .badLongOffset)
    else .error .badWidth
  | .windowRead =>
    if t.n == 1 then whenZero (t.addr == 0 && t.value == 0) (decodeWindowRead t.key) else .error .badWidth
  | .portWrite =>
    if t.n == 1 then
      whenZero (t.addr == 0)
        (withByte t.value (fun b => orReject .unknownPort ((findRow portRows t.key).bind (fun r => portOf r (.write b)))))
    else .error .badWidth
  | .portRead =>
    if t.n == 1 then
      whenZero (t.addr == 0 && t.value == 0)
        (orReject .unknownPort ((findRow portRows t.key).bind (fun r => portOf r .read)))
    else .error .badWidth
  | .ioWrite => whenZero (t.addr == 0) (withDatum t.n t.value (fun w => .ok (.ioWrite t.key w t.value)))
  | .ioRead => whenZero (t.addr == 0 && t.value == 0) (withWidth t.n (fun w => .ok (.ioRead t.key w)))
  | .memWrite => whenZero (t.key == 0) (withDatum t.n t.value (fun w => .ok (.memWrite t.addr w t.value)))
  | .memRead => whenZero (t.key == 0 && t.value == 0) (withWidth t.n (fun w => .ok (.memRead t.addr w)))
  | .feed => whenZero (t.key == 0) (withDatum t.n t.value (fun w => .ok (.feed t.addr w t.value)))
  | .modeUpdate => whenZero (t.key == 0 && t.n == 0) (.ok (.modeUpdate t.value t.addr))
  | .pciSetMemEnable =>
    whenZero (t.key == 0 && t.n == 0 && t.addr == 0)
      (if t.value == 0 then .ok (.pciSetMemEnable false)
       else if t.value == 1 then .ok (.pciSetMemEnable true) else .error .valueTooWide)
  | .pciSetBar =>
    whenZero (t.n == 0 && t.addr == 0)
      (if t.key.toNat < 256 then .ok (.pciSetBar (t.key.setWidth 8) t.value) else .error .valueTooWide)
  | .clearDirty => whenZero (t.key == 0 && t.n == 0 && t.addr == 0) (.ok (.clearDirty t.value))
  | .reset => whenZero (t.key == 0 && t.n == 0 && t.value == 0 && t.addr == 0) (.ok .reset)

/-- The record of a command code (R104). -/
def encodeCommand (code : Byte) : Tx := ⟨.command, code.setWidth 16, 0, 0, 0⟩

/-- The record of a form of BITBLT: the code 0x01 with the row's flag fields (R231 to R235). -/
def encodeForm (flags : Word) (useSrc : Byte) : Tx := ⟨.commandFlags, 0x01, useSrc, flags, 0⟩

/-- The record of a byte written at a window offset (R140). -/
def encodeWrite (o : Half) (b : Byte) : Tx := ⟨.windowWrite, o, 1, b.setWidth 32, 0⟩

/-- The record of a byte read at a window offset (R149). -/
def encodeRead (o : Byte) : Tx := ⟨.windowRead, o.setWidth 16, 1, 0, 0⟩

/-- The record of an I/O port byte (R109). -/
def encodePort (p : Half) : PortOp → Tx
  | .write v => ⟨.portWrite, p, 1, v.setWidth 32, 0⟩
  | .read => ⟨.portRead, p, 1, 0, 0⟩

/-- The encoder: the record of an instruction, from the offsets of R94, the codes of R104 and the ports of R109. -/
def encode : Instr → Tx
  | .bitblt => encodeCommand 0x01
  | .bitbltDisplay => encodeForm 0x04 0
  | .bitbltPattern => encodeForm 0x02 0
  | .bitbltCpuNative => encodeForm 0x00 1
  | .bitbltCpuMono => encodeForm 0x40 1
  | .bitbltZeroStream => encodeForm 0x00 0
  | .scanline => encodeCommand 0x03
  | .bresenham => encodeCommand 0x04
  | .shortvec => encodeCommand 0x05
  | .fastline => encodeCommand 0x06
  | .nopCmd code => encodeCommand code
  | .feed addr n v => ⟨.feed, 0, n.raw, v, addr⟩
  | .wrCommand b => encodeWrite 0x24 b
  | .wrCommandRop v => ⟨.windowLong, 0x24, 4, v, 0⟩
  | .wrRop b => encodeWrite 0x27 b
  | .wrFlags lane b => encodeWrite (0x28 ||| lane.setWidth 16) b
  | .wrFgCol lane b => encodeWrite (0x2C ||| lane.setWidth 16) b
  | .wrBgCol lane b => encodeWrite (0x30 ||| lane.setWidth 16) b
  | .wrDstX lane b => encodeWrite (0x38 ||| lane.setWidth 16) b
  | .wrDstY lane b => encodeWrite (0x3A ||| lane.setWidth 16) b
  | .wrSrcX lane b => encodeWrite (0x3C ||| lane.setWidth 16) b
  | .wrSrcY lane b => encodeWrite (0x3E ||| lane.setWidth 16) b
  | .wrSizeX lane b => encodeWrite (0x40 ||| lane.setWidth 16) b
  | .wrSizeY lane b => encodeWrite (0x42 ||| lane.setWidth 16) b
  | .wrStyle lane b => encodeWrite (0x44 ||| lane.setWidth 16) b
  | .wrClipLeft lane b => encodeWrite (0x48 ||| lane.setWidth 16) b
  | .wrClipTop lane b => encodeWrite (0x4A ||| lane.setWidth 16) b
  | .wrClipRight lane b => encodeWrite (0x4C ||| lane.setWidth 16) b
  | .wrClipBottom lane b => encodeWrite (0x4E ||| lane.setWidth 16) b
  | .wrCkey lane b => encodeWrite (0x68 ||| lane.setWidth 16) b
  | .wrFgColMirror lane b => encodeWrite (0x78 ||| lane.setWidth 16) b
  | .wrBgColMirror lane b => encodeWrite (0x7C ||| lane.setWidth 16) b
  | .wrPattern j b => encodeWrite (0x80 ||| j.setWidth 16) b
  | .wrUndecoded o b => encodeWrite (o.setWidth 16) b
  | .rdWindow o => encodeRead o
  | .rdUndecoded o => encodeRead o
  | .ioWrite port n v => ⟨.ioWrite, port, n.raw, v, 0⟩
  | .ioRead port n => ⟨.ioRead, port, n.raw, 0, 0⟩
  | .memWrite addr n v => ⟨.memWrite, 0, n.raw, v, addr⟩
  | .memRead addr n => ⟨.memRead, 0, n.raw, 0, addr⟩
  | .portSeqIdx op => encodePort 0x3C4 op
  | .portSeqData op => encodePort 0x3C5 op
  | .portGdcIdx op => encodePort 0x3CE op
  | .portGdcData op => encodePort 0x3CF op
  | .portCrtcIdx op => encodePort 0x3D4 op
  | .portCrtcData op => encodePort 0x3D5 op
  | .portWbank op => encodePort 0x3D8 op
  | .portRbank op => encodePort 0x3D9 op
  | .modeUpdate dispBpp rowOffset => ⟨.modeUpdate, 0, 0, dispBpp, rowOffset⟩
  | .pciSetMemEnable b => ⟨.pciSetMemEnable, 0, 0, if b then 1 else 0, 0⟩
  | .pciSetBar k base => ⟨.pciSetBar, k.setWidth 16, 0, base, 0⟩
  | .clearDirty page => ⟨.clearDirty, 0, 0, page, 0⟩
  | .reset => ⟨.reset, 0, 0, 0, 0⟩

/-- The record of a bare opcode-table word: its low 16 bits are the word the table matches, the bits above them the
operand. -/
def tableTx (nbits w : Nat) : Tx :=
  ⟨.tableWord, BitVec.ofNat 16 (w % 2 ^ nbits), 0, BitVec.ofNat 32 ((w % 2 ^ nbits) / 65536), 0⟩

/-- The instruction the decoder reads from a bare opcode-table word of `nbits` bits, bit 0 the least significant. -/
def decodeTableWord (nbits w : Nat) : Option Instr := (decode (tableTx nbits w)).toOption

end Sys2Proof
end

