-- ==== Sys2Proof/Machine/State.lean ====
section
/-!
DEFINITION. The state of one instance of the block: every field spec/10_state.md R20 to R47 names, the reset state of
spec/70_reset_and_hazards.md R291, and the reasons a step can stop. The block raises no exception (R270), so `Fault` has
no constructor.
-/

namespace Sys2Proof.Machine

/-- Video memory as (byte address, byte) pairs, addresses strictly rising, no entry 0x00: an unlisted byte reads as
0x00 (R38; notes/assumptions/6.md). -/
abbrev Memory := List Host.Cell

/-- The canonical form of a memory: addresses strictly rise and no entry equals what an unlisted address reads as. -/
abbrev Memory.wf (m : Memory) : Prop := m.Pairwise (fun p q => p.1 < q.1) ∧ ∀ p ∈ m, p.2 ≠ 0

/-- `accel_bpp`, the element size of the engine: the codes 0, 1 and 3 (R14, R29). -/
inductive AccelBpp where
  | bpp8 | bpp16 | bpp32
  deriving DecidableEq, Repr

/-- A direction sign, +1 or −1 (R45, R203). -/
inductive Sign where
  | pos | neg
  deriving DecidableEq, Repr

/-- The clip rectangle snapshot `clip_s` (R45): signed 16-bit bounds, inclusive. -/
structure Clip where
  l : Half
  t : Half
  r : Half
  b : Half
  deriving DecidableEq, Repr

/-- The continuation of a command (R45): cursors, offsets, row anchors, coordinates, pitch, directions, the snapshot of
the registers the command reads, the decoded pattern and the CPU bytes that do not yet form a pixel. -/
structure Cont where
  x        : Word
  y        : Word
  srcOff   : Word
  dstOff   : Word
  rowSrc   : Word
  rowDst   : Word
  dx       : Word
  dy       : Word
  x0       : Word
  pitch    : Word
  xdir     : Sign
  ydir     : Sign
  rop      : Byte
  flags    : Word
  fg       : Word
  bg       : Word
  sizeX    : Half
  sizeY    : Half
  clip     : Clip
  patS     : Vector Word 64
  residual : List Byte
  deriving DecidableEq, Repr

/-- The engine state (R40): idle, or suspended until CPU data arrives. -/
inductive Eng where
  | idle
  | awaitSrc (c : Cont)
  deriving DecidableEq, Repr

/-- The state of the block. The fields from `cfg` to `irq` and `recalcs` are the block's; `readData`, `draws` and
`pending` are the model's own: what the last read returned, how many free values have been drawn, and the host
transactions not yet performed (notes/assumptions/2.md, 4.md, 5.md). -/
structure State where
  /-- the configuration record of R9, never written after attach (R290) -/
  cfg : Config
  /-- command code register (R23) -/
  command : Byte
  /-- raster-operation code (R23) -/
  rop : Byte
  /-- derived from `rop` on every write of it (R24) -/
  useSrc : Byte
  /-- mode bits (R26, R100) -/
  flags : Word
  fgCol : Word
  bgCol : Word
  /-- colour key: stored, no effect (R28) -/
  ckey : Word
  /-- style: stored, no effect (R28) -/
  style : Word
  dstX : Half
  dstY : Half
  srcX : Half
  srcY : Half
  sizeX : Half
  sizeY : Half
  clipLeft : Half
  clipTop : Half
  clipRight : Half
  clipBottom : Half
  /-- pattern memory (R27) -/
  pattern : Vector Byte 128
  /-- rolling 32bpp pattern buffer and its write index (R27, R150) -/
  pattern32 : Vector Byte 256
  pat32Idx : Byte
  /-- mode inputs (R29, R30); `rowoffset` is a u32 (spec/opcode_table.json, row mode_update) -/
  accelBpp : AccelBpp
  rowOffset : Word
  /-- VGA-compatible register banks and their index registers (R32) -/
  crtc : Vector Byte 256
  seq : Vector Byte 256
  gdc : Vector Byte 256
  crtcIdx : Byte
  seqIdx : Byte
  gdcIdx : Byte
  /-- bank registers (R33) -/
  wbankReg : Byte
  rbankReg : Byte
  /-- bus fields (R35) -/
  pciMemEn : Bool
  linearBase : Word
  mmioBase : Word
  /-- Gen0 latch (R37) -/
  latch : Vector Byte 16
  /-- video memory (R38) -/
  vram : Memory
  /-- dirty pages, strictly rising (R39) -/
  dirty : List Nat
  /-- engine state and continuation (R40, R45) -/
  eng : Eng
  /-- IRQ output (R47, R274, R291) -/
  irq : Bool
  /-- how many `recalc_timings()` calls have been emitted since attach (R47, R157) -/
  recalcs : Nat
  /-- the model's own: the value the last read transaction returned, zero-extended -/
  readData : Word
  /-- the model's own: how many read transactions have been numbered for `Config.freeByte` -/
  draws : Nat
  /-- the model's own: the host transactions that have not been performed -/
  pending : List Tx
  deriving DecidableEq, Repr

/-- Device attach: the state of R291 for a configuration. On a non-PCI instance `pci_mem_en` is 1 and `linear_base` is
`VLB_LINEAR_BASE`. -/
def State.attach (cfg : Config) : State where
  cfg := cfg
  command := 0
  rop := 0
  useSrc := 0
  flags := 0
  fgCol := 0
  bgCol := 0
  ckey := 0
  style := 0
  dstX := 0
  dstY := 0
  srcX := 0
  srcY := 0
  sizeX := 0
  sizeY := 0
  clipLeft := 0
  clipTop := 0
  clipRight := 0
  clipBottom := 0
  pattern := Vector.replicate 128 0
  pattern32 := Vector.replicate 256 0
  pat32Idx := 0
  accelBpp := .bpp8
  rowOffset := 0
  crtc := Vector.replicate 256 0
  seq := Vector.replicate 256 0
  gdc := Vector.replicate 256 0
  crtcIdx := 0
  seqIdx := 0
  gdcIdx := 0
  wbankReg := 0
  rbankReg := 0
  pciMemEn := !cfg.isPci
  linearBase := if cfg.isPci then 0 else cfg.vlbLinearBase
  mmioBase := 0
  latch := Vector.replicate 16 0
  vram := cfg.vramInit
  dirty := []
  eng := .idle
  irq := false
  recalcs := 0
  readData := 0
  draws := 0
  pending := []

/-- The machine right after reset, in the reference configuration (R291, spec/95_test_vectors.md section 1). -/
def State.reset : State := State.attach Config.reference

/-- The reasons a step can stop with a fault: none. "No transaction and no command raises an exception" (R270), so this
type is empty. Safe: no fault can be claimed or relied on. -/
inductive Fault where
  deriving DecidableEq, Repr

/-- The reasons a step is refused. -/
inductive Refusal where
  /-- The instruction has no meaning yet; raised by the arms of `exec` that are rejected by name. Safe: the run stops. -/
  | notModelled (mnemonic : String)
  /-- A framebuffer access in a Gen0 sub-mode whose access function the configuration does not supply; raised by
  `MemWrite` and `MemRead` (R188, R273, D24). Safe: the run stops where the spec says the model stops. -/
  | gen0SubMode
  /-- The next record is no transaction of the spec; raised by `step` (notes/assumptions/3.md). Safe: the run stops. -/
  | undecodable (e : DecodeError)
  deriving DecidableEq, Repr

end Sys2Proof.Machine

namespace Sys2Proof

/-- `GEN0_MONO_WRITE` (R9, R188, D24): the video memory bytes the mono-expansion sub-mode stores when the host writes
byte `b` at VRAM byte `i`. No body (notes/assumptions/9.md). -/
opaque Config.gen0MonoWrite : Machine.State → Nat → Byte → List Host.Cell

/-- `GEN0_LATCH_WRITE` (R9, R188, D24): the video memory bytes the extended-latch-copy sub-mode stores. No body
(notes/assumptions/9.md). -/
opaque Config.gen0LatchWrite : Machine.State → Nat → Byte → List Host.Cell

/-- `GEN0_LATCH_READ` (R9, R188, D24): the byte returned and the new latch. No body (notes/assumptions/9.md). -/
opaque Config.gen0LatchRead : Machine.State → Nat → Byte × Vector Byte 16

end Sys2Proof
end

