-- ==== Sys2Proof/Machine/Flags.lean ====
section
/-!
DEFINITION. The bits of the `flags` register (spec/30_encoding.md R100). It is the block's only condition-like state and
no operation writes it as a side effect (spec/10_state.md R26): there is no flag computation, only these readings.
-/

namespace Sys2Proof.Machine

/-- `SRCPAT`, bit 1: the source is the pattern. -/
def srcPat (f : Word) : Bool := f.getLsbD 1

/-- `SRCDISP`, bit 2: the source is display memory. -/
def srcDisp (f : Word) : Bool := f.getLsbD 2

/-- `PATMONO`, bit 5: the pattern is monochrome. -/
def patMono (f : Word) : Bool := f.getLsbD 5

/-- `SRCMONO`, bit 6: the CPU source is monochrome. -/
def srcMono (f : Word) : Bool := f.getLsbD 6

/-- `YNEG`, bit 8: y direction negative. -/
def yNeg (f : Word) : Bool := f.getLsbD 8

/-- `XNEG`, bit 9: x direction negative. -/
def xNeg (f : Word) : Bool := f.getLsbD 9

/-- `YMAJ`, bit 10: the line is y-major. -/
def yMaj (f : Word) : Bool := f.getLsbD 10

/-- `TRANSENA`, bit 12: transparency enable. -/
def transEna (f : Word) : Bool := f.getLsbD 12

/-- `TRANSREV`, bit 13: transparency compares against the foreground. -/
def transRev (f : Word) : Bool := f.getLsbD 13

/-- `SOLIDFILL`, bit 14: the pattern is solid foreground. -/
def solidFill (f : Word) : Bool := f.getLsbD 14

/-- `STENCIL`, bit 15: named by the spec, read by no operation (R28). -/
def stencil (f : Word) : Bool := f.getLsbD 15

/-- `flags[10:8]`: the line octant and the compass code (R102, R103). -/
def octant (f : Word) : BitVec 3 := f.extractLsb' 8 3

end Sys2Proof.Machine
end

