-- ==== Sys2Proof/Machine/Operands.lean ====
section
/-!
DEFINITION. Operand forms: byte order (R13, R61), byte lanes of registers (R106), sign extension (R107, R146), element
sizes (R14), directions and compass codes (R102, R103, R203), the configuration's derived values (R9, R201) and the
transparency colour (R214).
-/

namespace Sys2Proof.Machine

/-- Byte `k` of a value, `v[8k+7:8k]` (R13). -/
def byteAt (v : Word) (k : Nat) : Byte := (v >>> (8 * k)).setWidth 8

/-- The first `n` bytes of a value in address order, least significant first (R13, R61). -/
def bytesOf (n : Nat) (v : Word) : List Byte := (List.range n).map (byteAt v)

/-- The value of a list of bytes in address order, least significant first (R13, R61). -/
def wordOfBytes : List Byte → Word
  | [] => 0
  | b :: bs => b.setWidth 32 ||| (wordOfBytes bs <<< 8)

/-- Replace byte `lane` of a 32-bit register, keeping the other lanes (R106). -/
def setByte32 (v : Word) (lane : BitVec 2) (b : Byte) : Word :=
  (v &&& ~~~((0xFF : Word) <<< (8 * lane.toNat))) ||| (b.setWidth 32 <<< (8 * lane.toNat))

/-- Byte `lane` of a 32-bit register (R149). -/
def getByte32 (v : Word) (lane : BitVec 2) : Byte := (v >>> (8 * lane.toNat)).setWidth 8

/-- Replace byte `lane` of a 16-bit register, keeping the other lane (R106). -/
def setByte16 (v : Half) (lane : BitVec 1) (b : Byte) : Half :=
  (v &&& ~~~((0xFF : Half) <<< (8 * lane.toNat))) ||| (b.setWidth 16 <<< (8 * lane.toNat))

/-- Byte `lane` of a 16-bit register (R149). -/
def getByte16 (v : Half) (lane : BitVec 1) : Byte := (v >>> (8 * lane.toNat)).setWidth 8

/-- `sx13` (R146): bits above the sign bit 12 are set when it is 1, and left alone when it is 0. -/
def sx13 (v : Half) : Half := if v.getLsbD 12 then v ||| 0xE000 else v

/-- `sx14` (R146): bits above the sign bit 13 are set when it is 1, and left alone when it is 0. -/
def sx14 (v : Half) : Half := if v.getLsbD 13 then v ||| 0xC000 else v

/-- `sint16` (R11, R108): a stored 16-bit register as a signed 32-bit value. -/
def sint16 (v : Half) : Word := v.signExtend 32

/-- `use_src` of a raster code (R24, R144). -/
def useSrcOf (rop : Byte) : Byte := (rop &&& 0x33) ^^^ ((rop >>> 2) &&& 0x33)

/-- `shift(accel_bpp)` (R14). -/
def AccelBpp.shift : AccelBpp → Nat
  | .bpp8 => 0
  | .bpp16 => 1
  | .bpp32 => 2

/-- The numeric code of `accel_bpp` (R14, R29). -/
def AccelBpp.code : AccelBpp → Nat
  | .bpp8 => 0
  | .bpp16 => 1
  | .bpp32 => 3

/-- `E = 1 << shift`, the bytes of an element (R14). -/
def AccelBpp.bytes (d : AccelBpp) : Nat := 2 ^ d.shift

/-- `trunc(v)`, the low `8E` bits (R14). -/
def AccelBpp.trunc (d : AccelBpp) (v : Word) : Word :=
  match d with
  | .bpp8 => v &&& 0xFF
  | .bpp16 => v &&& 0xFFFF
  | .bpp32 => v

/-- `accel_bpp` of a display depth (R31): 15 and 16 give 16-bit elements, 32 gives 32-bit elements, any other depth
8-bit elements. -/
def accelBppOf (dispBpp : Word) : AccelBpp :=
  if dispBpp = 15 ∨ dispBpp = 16 then .bpp16 else if dispBpp = 32 then .bpp32 else .bpp8

/-- A direction as the amount it adds to a cursor (R203). -/
def Sign.step : Sign → Word
  | .pos => 1
  | .neg => -1

/-- The direction of a sign flag (R203). -/
def signOf (neg : Bool) : Sign := if neg then .neg else .pos

/-- The step `(x, y)` of a compass code (R103). -/
def compass (code : BitVec 3) : Word × Word :=
  match code.toNat with
  | 0 => (1, 0)
  | 1 => (1, -1)
  | 2 => (0, -1)
  | 3 => (-1, -1)
  | 4 => (-1, 0)
  | 5 => (-1, 1)
  | 6 => (0, 1)
  | _ => (1, 1)

/-- `vram_mask` (R9). -/
def vramMask (cfg : Config) : Word := BitVec.ofNat 32 (cfg.vramSize.bytes - 1)

/-- `HAS_CLIP(type)` (R9, R201): Gen2 and later. -/
def hasClip (cfg : Config) : Bool := decide (Gen.rank .gen2 ≤ cfg.gen.rank)

/-- `HAS_FASTLINE(type)` (R9, R201). -/
def hasFastline (cfg : Config) : Bool := decide (cfg.fastlineMinGen.rank ≤ cfg.gen.rank)

/-- `HAS_GEN0_SUBMODES(type)` (R9). -/
def hasGen0SubModes (cfg : Config) : Bool := decide (cfg.gen = .gen0)

/-- `pitch` (R202): elements per scanline, a u32. -/
def pitchOf (d : AccelBpp) (rowOffset : Word) : Word := rowOffset * BitVec.ofNat 32 (8 >>> d.shift)

/-- The `n`-byte write's signed size as the count of loop passes after the first, `max(size, 0)` (R216). -/
def extent (size : Half) : Nat := size.toInt.toNat

/-- `trans_col` (R214). -/
def transCol (c : Cont) : Word := if transRev c.flags then c.fg else c.bg

/-- The transparency test of R214 on a source operand. -/
def transparent (d : AccelBpp) (c : Cont) (src : Word) : Bool :=
  transEna c.flags && d.trunc src == d.trunc (transCol c)

/-- The eight source pixels of a mono CPU byte, most significant bit first, 1 the foreground (R219). -/
def monoPixels (c : Cont) (b : Byte) : List Word :=
  [7, 6, 5, 4, 3, 2, 1, 0].map (fun i => if b.getLsbD i then c.fg else c.bg)

/-- Take pixels of `e` bytes off the front of a residual while it holds one (R220, R221); `fuel` bounds the passes by
the residual's length. -/
def takePixels (e : Nat) : Nat → List Byte → List Word × List Byte
  | 0, r => ([], r)
  | fuel + 1, r =>
    if e ≤ r.length then
      ((wordOfBytes (r.take e)) :: (takePixels e fuel (r.drop e)).1, (takePixels e fuel (r.drop e)).2)
    else ([], r)

/-- Membership of a CRTC index in `TIMING_INDICES` (R157). -/
def inTimingIndices (cfg : Config) (i : Byte) : Bool :=
  match cfg.timingIndices with
  | .all => true
  | .only is => is.contains i

end Sys2Proof.Machine
end

