-- ==== Sys2Proof/Machine/Rop.lean ====
section
/-!
DEFINITION. The raster-operation evaluator (spec/40_rop.md R130 to R137), in the sum-of-minterms form R137 allows.
-/

namespace Sys2Proof.Machine

/-- The minterm of code bit `k`: `P_k & S_k & D_k`, each operand as it is when its bit of `k` (weights 4, 2, 1) is 1
and complemented when it is 0 (R130, R137). -/
def minterm (k : Nat) (dst pat src : Word) : Word :=
  (if k.testBit 2 then pat else ~~~pat) &&& (if k.testBit 1 then src else ~~~src) &&& (if k.testBit 0 then dst else ~~~dst)

/-- `mix(rop, dst, pat, src)`: the ternary raster operation (R130): result bit `i` is code bit
`4·pat[i] + 2·src[i] + dst[i]`. -/
def mix (rop : Byte) (dst pat src : Word) : Word :=
  [0, 1, 2, 3, 4, 5, 6, 7].foldl (fun acc k => if rop.getLsbD k then acc ||| minterm k dst pat src else acc) 0

end Sys2Proof.Machine
end

