-- ==== Sys2Proof/Machine/Ops.lean ====
section
/-!
DEFINITION. The named operations over video memory, the dirty bitmap and the register banks
(spec/20_memory.md R63 to R66, spec/10_state.md R32, R33).

TAKING AN EXCEPTION has no operation here, and returning from one has none: the block has no exception cause, no trap
vector, no saved state and no return (spec/60_exceptions.md R270, R276), no interrupt source (R274) and no privilege
(R278). What stands in their place is `Fault` with no constructor.
-/

namespace Sys2Proof.Machine

/-- Read one byte of video memory; an unlisted byte is 0x00. -/
def Memory.read : Memory → Nat → Byte
  | [], _ => 0
  | c :: m, a => if c.1 = a then c.2 else Memory.read m a

/-- Store one byte of video memory, keeping the canonical form: writing 0x00 removes the entry. -/
def Memory.write : Memory → Nat → Byte → Memory
  | [], a, b => if b = 0 then [] else [(a, b)]
  | c :: m, a, b =>
    if a < c.1 then (if b = 0 then c :: m else (a, b) :: c :: m)
    else if a = c.1 then (if b = 0 then m else (a, b) :: m)
    else c :: Memory.write m a b

/-- Store a list of bytes at consecutive addresses (R61). -/
def Memory.writeBytes : Memory → Nat → List Byte → Memory
  | m, _, [] => m
  | m, a, b :: bs => Memory.writeBytes (Memory.write m a b) (a + 1) bs

/-- Read `n` bytes at consecutive addresses (R61). -/
def Memory.readBytes (m : Memory) (a n : Nat) : List Byte := (List.range n).map (fun k => Memory.read m (a + k))

/-- Set the dirty bit of a page (R39, R66); the list of dirty pages stays strictly rising. -/
def markPage : List Nat → Nat → List Nat
  | [], p => [p]
  | q :: qs, p => if p < q then p :: q :: qs else if p = q then q :: qs else q :: markPage qs p

/-- Clear the dirty bit of a page (R66); clearing a page that is not dirty, or that does not exist, changes nothing. -/
def cleanPage (qs : List Nat) (p : Nat) : List Nat := qs.filter (fun q => decide (q ≠ p))

/-- A VRAM byte write sets the byte and the dirty bit of its 4096-byte page (R66). -/
def vramWrite (s : State) (a : Nat) (b : Byte) : State :=
  { s with vram := s.vram.write a b, dirty := markPage s.dirty (a / 4096) }

/-- VRAM byte writes from a list of cells, each address taken modulo `VRAM_SIZE` (the Gen0 functions of R188). -/
def vramWriteCells (s : State) (cs : List Host.Cell) : State :=
  cs.foldl (fun t c => vramWrite t (c.1 % s.cfg.vramSize.bytes) c.2) s

/-- The byte address of an engine element: the index masked by `vram_mask >> shift`, times the element size
(R63, R67). -/
def elemAddr (s : State) (off : Word) : Nat :=
  ((off &&& (vramMask s.cfg >>> s.accelBpp.shift)) <<< s.accelBpp.shift).toNat

/-- `ReadPixel(off)` (R63). -/
def readPixel (s : State) (off : Word) : Word := wordOfBytes (s.vram.readBytes (elemAddr s off) s.accelBpp.bytes)

/-- `WritePixel(off, v)` (R64): the low `E` bytes of `v`, and the dirty bit of the element's page. -/
def writePixel (s : State) (off v : Word) : State :=
  { s with
    vram := s.vram.writeBytes (elemAddr s off) (bytesOf s.accelBpp.bytes v)
    dirty := markPage s.dirty (elemAddr s off / 4096) }

/-- A byte of pattern memory (R27). -/
def patByte (s : State) (j : BitVec 7) : Byte := s.pattern[j.toNat]'(j.isLt)

/-- A byte of the rolling 32bpp pattern buffer (R27). -/
def pat32Byte (s : State) (j : Byte) : Byte := s.pattern32[j.toNat]'(j.isLt)

/-- A byte of a register bank (R32). -/
def bankByte (s : State) (b : Bank) (i : Byte) : Byte :=
  match b with
  | .crtc => s.crtc[i.toNat]'(i.isLt)
  | .seq => s.seq[i.toNat]'(i.isLt)
  | .gdc => s.gdc[i.toNat]'(i.isLt)

/-- A field of `w` bits at a `BINDING` location (R34). -/
def bankField (s : State) (l : BitLoc) (w : Nat) : BitVec w := (bankByte s l.bank l.index >>> l.lo).setWidth w

/-- `write_bank` (R33): `wbank_reg[5:0] * BANK_GRANULE`. -/
def writeBank (s : State) : Word := (s.wbankReg.setWidth 6).setWidth 32 * s.cfg.bankGranule

/-- `read_bank` (R33): `rbank_reg[5:0] * BANK_GRANULE`. -/
def readBank (s : State) : Word := (s.rbankReg.setWidth 6).setWidth 32 * s.cfg.bankGranule

/-- `busy`: the engine awaits CPU data (R42). -/
def busy (s : State) : Bool :=
  match s.eng with
  | .idle => false
  | .awaitSrc _ => true

/-- A read transaction ends: the value goes to the host, and the next read draws fresh free values
(notes/assumptions/4.md, 5.md). -/
def finishRead (s : State) (v : Word) : State := { s with readData := v, draws := s.draws + 1 }

/-- The next host transaction, and the state in which it is performed (R8, R73; notes/assumptions/2.md). -/
def fetchTx (s : State) : Option (Tx × State) :=
  match s.pending with
  | [] => none
  | t :: ts => some (t, { s with pending := ts })

/-- The host puts a transaction before those it has not performed yet. -/
def placeTx (t : Tx) (s : State) : State := { s with pending := t :: s.pending }

/-- A transaction that ends in a state, or is refused. -/
def outcomeOf : Except Refusal State → Host.Outcome State Fault Refusal
  | .ok s => .next s
  | .error r => .refused r

end Sys2Proof.Machine
end

