-- ==== Sys2Proof/Machine/Mapping.lean ====
section
/-!
DEFINITION. The memory-mapping address router (spec/42_mapping.md R170 to R179, R189, R190): the mapping-control fields,
the aperture set `Map(state)` and the route of a physical byte address.
-/

namespace Sys2Proof.Machine

/-- `lin_en` (R34). -/
def linEn (s : State) : Bool := bankField s s.cfg.binding.linEn 1 == 1

/-- `map_sel` (R34). -/
def mapSel (s : State) : BitVec 2 := bankField s s.cfg.binding.mapSel 2

/-- `accel_sel` (R34). -/
def accelSel (s : State) : BitVec 2 := bankField s s.cfg.binding.accelSel 2

/-- `mmio_en` (R34). -/
def mmioEn (s : State) : Bool := bankField s s.cfg.binding.mmioEn 1 == 1

/-- `gen0_submode` (R34, R110): `normal` off Gen0 and where it is bound to no location. -/
def subMode (s : State) : SubMode :=
  if hasGen0SubModes s.cfg then
    match s.cfg.binding.subMode with
    | none => .normal
    | some l =>
      match (bankField s l.loc 2).toNat with
      | 0 => .normal
      | 1 => l.one
      | 2 => l.two
      | _ => l.three
  else .normal

/-- `pci_mem_en` as the router reads it: always 1 on a non-PCI instance (R35, R179). -/
def memEnabled (s : State) : Bool := !s.cfg.isPci || s.pciMemEn

/-- `linear_base` as the router reads it: `VLB_LINEAR_BASE` on a non-PCI instance (R35, R179). -/
def linearBaseOf (s : State) : Word := if s.cfg.isPci then s.linearBase else s.cfg.vlbLinearBase

/-- The kinds of aperture (R172). -/
inductive ApKind where
  | banked | linear | accel | mmio
  deriving DecidableEq, Repr

/-- A half-open physical range with a kind (R172). -/
structure Aperture where
  kind : ApKind
  base : Word
  size : Nat
  deriving DecidableEq, Repr

/-- `a` lies in the aperture; the range does not wrap at 2^32 (notes/assumptions/15.md). -/
def Aperture.holds (p : Aperture) (a : Word) : Bool :=
  decide (p.base.toNat ≤ a.toNat ∧ a.toNat < p.base.toNat + p.size)

/-- The banked window of a `map_sel` (R174). -/
def bankedWindow (sel : BitVec 2) : Aperture :=
  match sel.toNat with
  | 0 => ⟨.banked, 0xA0000, 0x20000⟩
  | 1 => ⟨.banked, 0xA0000, 0x10000⟩
  | 2 => ⟨.banked, 0xB0000, 0x8000⟩
  | _ => ⟨.banked, 0xB8000, 0x8000⟩

/-- `accel_base(accel_sel)` (R176), for a nonzero select. -/
def accelBase (cfg : Config) (sel : BitVec 2) : Word :=
  match sel.toNat with
  | 1 => cfg.accelFixedBase1
  | 2 => cfg.accelFixedBase2
  | _ => cfg.geBase

/-- `Map(state)`: the active apertures (R172 to R177, R179). -/
def mapOf (s : State) : List Aperture :=
  if memEnabled s then
    (if linEn s then [] else [bankedWindow (mapSel s)]) ++
    (if linEn s || (s.cfg.isPci && linearBaseOf s != 0) then [⟨.linear, linearBaseOf s, s.cfg.vramSize.bytes⟩] else []) ++
    (if accelSel s != 0 && (linEn s || s.cfg.accelInBanked) then
      [⟨.accel, accelBase s.cfg (accelSel s), s.cfg.accelApertureSize.toNat⟩] else []) ++
    (if s.cfg.hasMmio && mmioEn s then [⟨.mmio, s.mmioBase, 0x10000⟩] else [])
  else []

/-- The aperture that claims an address, with the offset the decoder uses (R178). -/
inductive Route where
  | banked (w : Word)
  | linear (l : Word)
  | accel (o : Byte)
  | mmio (m : Half)
  | unclaimed
  deriving DecidableEq, Repr

/-- The offset of an address in the active aperture of a kind, if that aperture holds it. -/
def hit (s : State) (k : ApKind) (a : Word) : Option Word :=
  ((mapOf s).find? (fun p => decide (p.kind = k) && p.holds a)).map (fun p => a - p.base)

/-- `route(a)`, by the precedence Accel, Mmio, Linear, Banked (R178). -/
def route (s : State) (a : Word) : Route :=
  match hit s .accel a with
  | some d => .accel (d.setWidth 8)
  | none =>
    match hit s .mmio a with
    | some d => .mmio (d.setWidth 16)
    | none =>
      match hit s .linear a with
      | some d => .linear d
      | none =>
        match hit s .banked a with
        | some d => .banked d
        | none => .unclaimed

/-- The framebuffer apertures that act as the CPU-data alias (R9 `FEED_APERTURES`, R180). -/
def isFeedRoute (cfg : Config) : Route → Bool
  | .banked _ => cfg.feedBanked
  | .linear _ => cfg.feedLinear
  | .accel _ => false
  | .mmio _ => false
  | .unclaimed => false

/-- The VRAM byte a banked-window offset reaches through a bank offset (R184, R187). -/
def bankedIndex (s : State) (bank w : Word) : Nat := ((bank + w) &&& vramMask s.cfg).toNat

/-- The VRAM byte a linear-aperture offset reaches (R185). -/
def linearIndex (s : State) (l : Word) : Nat := (l &&& vramMask s.cfg).toNat

end Sys2Proof.Machine
end

