-- ==== Sys2Proof/Machine/Engine.lean ====
section
/-!
DEFINITION. The blit engine: command start, pattern decode, per-pixel steps, the CPU-data feed, line plotting and the
commands' loops (spec/43_blit_setup.md R200 to R225, spec/44_blit_commands.md R230 to R260). Every loop of the spec tests
after the step, so its passes are counted by the size registers and the loops here recurse on that count
(notes/assumptions/16.md).
-/

namespace Sys2Proof.Machine

/-! ## Command start -/

/-- The form of the decoded pattern, by the precedence of R204. -/
inductive PatForm where
  | solid | mono | native8 | native16 | native32
  deriving DecidableEq, Repr

/-- `form` of `decode_pattern` (R204). -/
def patForm (s : State) : PatForm :=
  if solidFill s.flags then .solid
  else if patMono s.flags then .mono
  else
    match s.accelBpp with
    | .bpp8 => .native8
    | .bpp16 => .native16
    | .bpp32 => .native32

/-- `cell(form, px, py)` with `i = py*8 + px` (R205 to R209). -/
def patCell (s : State) (i : Nat) : Word :=
  match patForm s with
  | .solid => s.fgCol
  | .mono => if (patByte s (BitVec.ofNat 7 (i / 8))).getLsbD (7 - i % 8) then s.fgCol else s.bgCol
  | .native8 => wordOfBytes [patByte s (BitVec.ofNat 7 i)]
  | .native16 => wordOfBytes [patByte s (BitVec.ofNat 7 (2 * i)), patByte s (BitVec.ofNat 7 (2 * i + 1))]
  | .native32 =>
    wordOfBytes [pat32Byte s (BitVec.ofNat 8 (4 * i)), pat32Byte s (BitVec.ofNat 8 (4 * i + 1)),
      pat32Byte s (BitVec.ofNat 8 (4 * i + 2)), pat32Byte s (BitVec.ofNat 8 (4 * i + 3))]

/-- `decode_pattern()` into the 64 cells of `pat_s` (R204). -/
def decodePattern (s : State) : Vector Word 64 := ⟨((List.range 64).map (patCell s)).toArray, by simp⟩

/-- `src_off` at command start (R210). -/
def startSrcOff (s : State) : Word := sint16 s.srcX + sint16 s.srcY * pitchOf s.accelBpp s.rowOffset

/-- `dst_off` at command start (R210). -/
def startDstOff (s : State) : Word := sint16 s.dstX + sint16 s.dstY * pitchOf s.accelBpp s.rowOffset

/-- `snapshot()`: the continuation of a command at its start (R202, R203, R204, R210, R211). -/
def snapshot (s : State) : Cont where
  x := 0
  y := 0
  srcOff := startSrcOff s
  dstOff := startDstOff s
  rowSrc := startSrcOff s
  rowDst := startDstOff s
  dx := sint16 s.dstX
  dy := sint16 s.dstY
  x0 := sint16 s.dstX
  pitch := pitchOf s.accelBpp s.rowOffset
  xdir := signOf (xNeg s.flags)
  ydir := signOf (yNeg s.flags)
  rop := s.rop
  flags := s.flags
  fg := s.fgCol
  bg := s.bgCol
  sizeX := s.sizeX
  sizeY := s.sizeY
  clip := ⟨s.clipLeft, s.clipTop, s.clipRight, s.clipBottom⟩
  patS := decodePattern s
  residual := []

/-- A command byte is accepted: it is stored, and any awaiting command is aborted before anything else
(R143, R200, R44). -/
def acceptCommand (code : Byte) (s : State) : State := { s with command := code, eng := .idle }

/-! ## Per-pixel steps -/

/-- `pat_at(dx, dy)`: the pattern cell of destination coordinates (R212). -/
def patAt (c : Cont) (dx dy : Word) : Word :=
  c.patS[(dy.setWidth 3 ++ dx.setWidth 3 : BitVec 6).toNat]'((dy.setWidth 3 ++ dx.setWidth 3 : BitVec 6).isLt)

/-- `clip_ok(px, py)` (R213): inclusive signed bounds, on the generations that clip. -/
def clipOk (cfg : Config) (k : Clip) (px py : Word) : Bool :=
  !hasClip cfg ||
    ((sint16 k.l).sle px && px.sle (sint16 k.r) && (sint16 k.t).sle py && py.sle (sint16 k.b))

/-- `compose(off, pat, src)`: the read-modify-write of one destination element (R215). -/
def compose (c : Cont) (off pat src : Word) (s : State) : State := writePixel s off (mix c.rop (readPixel s off) pat src)

/-- The drawing half of `blt_pixel` with transparency enabled (R213 to R216). -/
def drawPixel (src : Word) (c : Cont) (s : State) : State :=
  if clipOk s.cfg c.clip c.dx c.dy && !transparent s.accelBpp c src then compose c c.dstOff (patAt c c.dx c.dy) src s
  else s

/-- The step along the row that opens `advance` and closes a scanline pass (R216, R240). -/
def stepX (c : Cont) : Cont :=
  { c with
    x := c.x + 1
    srcOff := c.srcOff + c.xdir.step
    dstOff := c.dstOff + c.xdir.step
    dx := c.dx + c.xdir.step }

/-- The move to the start of the next row in `advance` (R216). -/
def nextRow (c : Cont) : Cont :=
  { c with
    x := 0
    y := c.y + 1
    rowSrc := c.rowSrc + c.ydir.step * c.pitch
    rowDst := c.rowDst + c.ydir.step * c.pitch
    srcOff := c.rowSrc + c.ydir.step * c.pitch
    dstOff := c.rowDst + c.ydir.step * c.pitch
    dx := c.x0
    dy := c.dy + c.ydir.step }

/-- A cursor has passed a signed size (R216, R240). -/
def beyond (v : Word) (size : Half) : Bool := (sint16 size).slt v

/-- `advance()`: the cursors of the next pixel, or nothing when the rectangle is done (R216). -/
def advance (c : Cont) : Option Cont :=
  if beyond (stepX c).x c.sizeX then
    if beyond (nextRow (stepX c)).y c.sizeY then none else some (nextRow (stepX c))
  else some (stepX c)

/-- The number of pixels a BitBLT draws or consumes, `(max(size_x,0)+1) * (max(size_y,0)+1)` (R216, R222). -/
def pixelCount (c : Cont) : Nat := (extent c.sizeX + 1) * (extent c.sizeY + 1)

/-- `repeat … until blt_pixel(src, true) = Done` (R231, R232, R235), the source of each pixel computed before it. -/
def bltLoop (source : State → Cont → Word) : Nat → Cont → State → State
  | 0, _, s => s
  | n + 1, c, s =>
    match advance c with
    | none => drawPixel (source s c) c s
    | some c' => bltLoop source n c' (drawPixel (source s c) c s)

/-! ## BitBLT forms -/

/-- `bitblt_display` (R231): each source is read from display memory just before its pixel. -/
def bitbltDisplay (c : Cont) (s : State) : State := bltLoop (fun t k => readPixel t k.srcOff) (pixelCount c) c s

/-- `bitblt_pattern` (R232): source and pattern operand are the same cell. -/
def bitbltPattern (c : Cont) (s : State) : State := bltLoop (fun _ k => patAt k k.dx k.dy) (pixelCount c) c s

/-- `bitblt_zero_stream` (R235, R223): every datum is `bg_s` in mono form and 0 in native form. -/
def bitbltZeroStream (c : Cont) (s : State) : State :=
  bltLoop (fun _ k => if srcMono k.flags then k.bg else 0) (pixelCount c) c s

/-- A CPU-source BitBLT suspends until data arrives (R230, R233, R234). -/
def bitbltAwait (c : Cont) (s : State) : State := { s with eng := .awaitSrc c }

/-- `bitblt_start` (R230): the source form, by the precedence of R101 and `use_src`. -/
def bitbltStart (c : Cont) (s : State) : State :=
  if srcDisp c.flags then bitbltDisplay c s
  else if srcPat c.flags then bitbltPattern c s
  else if s.useSrc = 0 then bitbltZeroStream c s
  else bitbltAwait c s

/-! ## Scanline and lines -/

/-- The source of a scanline pixel (R240): the pattern when it alone is selected, else display memory. -/
def scanlineSource (c : Cont) (s : State) : Word :=
  if !srcDisp c.flags && srcPat c.flags then patAt c c.dx c.dy else readPixel s c.srcOff

/-- One scanline pixel (R240): clip test, no transparency test. -/
def scanlinePixel (c : Cont) (s : State) : State :=
  if clipOk s.cfg c.clip c.dx c.dy then compose c c.dstOff (patAt c c.dx c.dy) (scanlineSource c s) s else s

/-- The passes of `scanline` (R240). -/
def scanlineLoop : Nat → Cont → State → State
  | 0, _, s => s
  | n + 1, c, s =>
    if beyond (stepX c).x c.sizeX then scanlinePixel c s else scanlineLoop n (stepX c) (scanlinePixel c s)

/-- `scanline(cont)` (R240). -/
def runScanline (c : Cont) (s : State) : State := scanlineLoop (extent c.sizeX + 1) c s

/-- `plot(px, py)` (R224): foreground as pattern and source, clip test, no transparency test. -/
def plot (c : Cont) (px py : Word) (s : State) : State :=
  if clipOk s.cfg c.clip px py then compose c (px + py * c.pitch) c.fg c.fg s else s

/-- The cursor of a line command (R245): position, error term and step counter. -/
structure LineCursor where
  px  : Word
  py  : Word
  err : Word
  i   : Word
  deriving DecidableEq, Repr

/-- One step of the Bresenham walk (R245): the major step always, the minor step and `K2` when the error term is not
negative, `K1` when it is. `k1` is `src_y`, `k2` is `src_x`. -/
def bresenhamStep (flags k1 k2 : Word) (p : LineCursor) : LineCursor :=
  let xs := (signOf (xNeg flags)).step
  let ys := (signOf (yNeg flags)).step
  let diagonal := !p.err.msb
  { px := if !yMaj flags || diagonal then p.px + xs else p.px
    py := if yMaj flags || diagonal then p.py + ys else p.py
    err := if diagonal then p.err + k2 else p.err + k1
    i := p.i + 1 }

/-- One step of a short vector or fast line (R250): both axes move by the compass code. -/
def compassStep (flags : Word) (p : LineCursor) : LineCursor :=
  { p with px := p.px + (compass (octant flags)).1, py := p.py + (compass (octant flags)).2, i := p.i + 1 }

/-- The passes of a line command (R245, R250): plot, step, until the counter passes `size_y`. -/
def lineLoop (c : Cont) (step : LineCursor → LineCursor) : Nat → LineCursor → State → State
  | 0, _, s => s
  | n + 1, p, s =>
    if beyond (step p).i c.sizeY then plot c p.px p.py s else lineLoop c step n (step p) (plot c p.px p.py s)

/-- The start cursor of a line command (R245, R250). -/
def lineStart (c : Cont) : LineCursor := ⟨c.dx, c.dy, sint16 c.sizeX, 0⟩

/-- `bresenham(cont)` (R245), with the constants `K1 = src_y` and `K2 = src_x` as registers hold them at the start. -/
def runBresenham (c : Cont) (s : State) : State :=
  lineLoop c (bresenhamStep c.flags (sint16 s.srcY) (sint16 s.srcX)) (extent c.sizeY + 1) (lineStart c) s

/-- `shortvec(cont)` (R250). -/
def runShortvec (c : Cont) (s : State) : State := lineLoop c (compassStep c.flags) (extent c.sizeY + 1) (lineStart c) s

/-- `fastline(cont)` (R255), identical to `shortvec`. -/
def runFastline (c : Cont) (s : State) : State := lineLoop c (compassStep c.flags) (extent c.sizeY + 1) (lineStart c) s

/-! ## Starting a command -/

/-- `start_command()` after the abort, on the stored command code (R200, R201, R260). -/
def startCommand (s : State) : State :=
  if s.command = 0x01 then bitbltStart (snapshot s) s
  else if s.command = 0x03 then runScanline (snapshot s) s
  else if s.command = 0x04 then runBresenham (snapshot s) s
  else if s.command = 0x05 then runShortvec (snapshot s) s
  else if s.command = 0x06 then (if hasFastline s.cfg then runFastline (snapshot s) s else s)
  else s

/-- `command_write(b)` (R143, R200). -/
def commandWrite (b : Byte) (s : State) : State := startCommand (acceptCommand b s)

/-! ## CPU data -/

/-- Pass source pixels to `blt_pixel` in order; nothing is left of the continuation when the last pixel is done
(R221, R222). -/
def feedPixels : List Word → Cont → State → State × Option Cont
  | [], c, s => (s, some c)
  | p :: ps, c, s =>
    match advance c with
    | none => (drawPixel p c s, none)
    | some c' => feedPixels ps c' (drawPixel p c s)

/-- One byte of CPU data: eight mono pixels, or a byte of the native stream (R219, R220, R221). -/
def feedByte (b : Byte) (c : Cont) (s : State) : State × Option Cont :=
  if srcMono c.flags then feedPixels (monoPixels c b) c s
  else
    feedPixels (takePixels s.accelBpp.bytes (c.residual ++ [b]).length (c.residual ++ [b])).1
      { c with residual := (takePixels s.accelBpp.bytes (c.residual ++ [b]).length (c.residual ++ [b])).2 } s

/-- The bytes of one feed in order; the rest of a feed after the last pixel is discarded (R221, R222). -/
def feedBytes : List Byte → Cont → State → State × Option Cont
  | [], c, s => (s, some c)
  | b :: bs, c, s =>
    match feedByte b c s with
    | (s', none) => (s', none)
    | (s', some c') => feedBytes bs c' s'

/-- The engine state after a feed: `complete()` or the updated continuation (R221, R222). -/
def engAfter : Option Cont → Eng
  | none => .idle
  | some c => .awaitSrc c

/-- `feed(bytes)` (R221). -/
def feed (bytes : List Byte) (s : State) : State :=
  match s.eng with
  | .idle => s
  | .awaitSrc c => { (feedBytes bytes c s).1 with eng := engAfter (feedBytes bytes c s).2 }

end Sys2Proof.Machine
end

