-- ==== Sys2Proof/Machine/Registers.lean ====
section
/-!
DEFINITION. The register file and its decoder (spec/41_register_file.md R140 to R159): the window offsets of R94, the
byte writes and reads, the atomic command word, the VGA-compatible ports and the I/O port decode.
-/

namespace Sys2Proof.Machine

/-- What a window offset reaches (R94): a register with a byte lane, a pattern cell, or nothing. A mirror of a colour
register is that register (R95). -/
inductive WindowReg where
  | command | rop
  | flags (lane : BitVec 2) | fgCol (lane : BitVec 2) | bgCol (lane : BitVec 2)
  | dstX (lane : BitVec 1) | dstY (lane : BitVec 1) | srcX (lane : BitVec 1) | srcY (lane : BitVec 1)
  | sizeX (lane : BitVec 1) | sizeY (lane : BitVec 1)
  | style (lane : BitVec 2)
  | clipLeft (lane : BitVec 1) | clipTop (lane : BitVec 1) | clipRight (lane : BitVec 1) | clipBottom (lane : BitVec 1)
  | ckey (lane : BitVec 2)
  | pattern (j : BitVec 7)
  | undecoded
  deriving DecidableEq, Repr

/-- The register map of the window (R94, R95, R97, R98). -/
def windowReg (o : Byte) : WindowReg :=
  let k := o.toNat
  if k = 0x24 then .command
  else if k = 0x27 then .rop
  else if 0x28 ≤ k ∧ k ≤ 0x2B then .flags (BitVec.ofNat 2 (k - 0x28))
  else if 0x2C ≤ k ∧ k ≤ 0x2F then .fgCol (BitVec.ofNat 2 (k - 0x2C))
  else if 0x30 ≤ k ∧ k ≤ 0x33 then .bgCol (BitVec.ofNat 2 (k - 0x30))
  else if 0x38 ≤ k ∧ k ≤ 0x39 then .dstX (BitVec.ofNat 1 (k - 0x38))
  else if 0x3A ≤ k ∧ k ≤ 0x3B then .dstY (BitVec.ofNat 1 (k - 0x3A))
  else if 0x3C ≤ k ∧ k ≤ 0x3D then .srcX (BitVec.ofNat 1 (k - 0x3C))
  else if 0x3E ≤ k ∧ k ≤ 0x3F then .srcY (BitVec.ofNat 1 (k - 0x3E))
  else if 0x40 ≤ k ∧ k ≤ 0x41 then .sizeX (BitVec.ofNat 1 (k - 0x40))
  else if 0x42 ≤ k ∧ k ≤ 0x43 then .sizeY (BitVec.ofNat 1 (k - 0x42))
  else if 0x44 ≤ k ∧ k ≤ 0x47 then .style (BitVec.ofNat 2 (k - 0x44))
  else if 0x48 ≤ k ∧ k ≤ 0x49 then .clipLeft (BitVec.ofNat 1 (k - 0x48))
  else if 0x4A ≤ k ∧ k ≤ 0x4B then .clipTop (BitVec.ofNat 1 (k - 0x4A))
  else if 0x4C ≤ k ∧ k ≤ 0x4D then .clipRight (BitVec.ofNat 1 (k - 0x4C))
  else if 0x4E ≤ k ∧ k ≤ 0x4F then .clipBottom (BitVec.ofNat 1 (k - 0x4E))
  else if 0x68 ≤ k ∧ k ≤ 0x6B then .ckey (BitVec.ofNat 2 (k - 0x68))
  else if 0x78 ≤ k ∧ k ≤ 0x7B then .fgCol (BitVec.ofNat 2 (k - 0x78))
  else if 0x7C ≤ k ∧ k ≤ 0x7F then .bgCol (BitVec.ofNat 2 (k - 0x7C))
  else if 0x80 ≤ k then .pattern (BitVec.ofNat 7 (k - 0x80))
  else .undecoded

/-! ## Window writes -/

/-- `rop_write(b)` (R144): `rop` and its derived `use_src`. -/
def ropWrite (b : Byte) (s : State) : State := { s with rop := b, useSrc := useSrcOf b }

/-- `pattern_write(j, b)` (R150): the addressed byte, and the rolling buffer whose index advances modulo 256. -/
def patternWrite (j : BitVec 7) (b : Byte) (s : State) : State :=
  { s with
    pattern := s.pattern.set j.toNat b j.isLt
    pattern32 := s.pattern32.set s.pat32Idx.toNat b s.pat32Idx.isLt
    pat32Idx := s.pat32Idx + 1 }

/-- `reg_write_byte(o, b)` (R140). -/
def regWriteByte (o b : Byte) (s : State) : State :=
  match windowReg o with
  | .command => commandWrite b s
  | .rop => ropWrite b s
  | .flags l => { s with flags := setByte32 s.flags l b }
  | .fgCol l => { s with fgCol := setByte32 s.fgCol l b }
  | .bgCol l => { s with bgCol := setByte32 s.bgCol l b }
  | .dstX l => { s with dstX := setByte16 s.dstX l b }
  | .dstY l => { s with dstY := setByte16 s.dstY l b }
  | .srcX l => { s with srcX := sx13 (setByte16 s.srcX l b) }
  | .srcY l => { s with srcY := sx13 (setByte16 s.srcY l b) }
  | .sizeX l => { s with sizeX := sx14 (setByte16 s.sizeX l b) }
  | .sizeY l => { s with sizeY := setByte16 s.sizeY l b }
  | .style l => { s with style := setByte32 s.style l b }
  | .clipLeft l => { s with clipLeft := setByte16 s.clipLeft l b }
  | .clipTop l => { s with clipTop := setByte16 s.clipTop l b }
  | .clipRight l => { s with clipRight := setByte16 s.clipRight l b }
  | .clipBottom l => { s with clipBottom := setByte16 s.clipBottom l b }
  | .ckey l => { s with ckey := setByte32 s.ckey l b }
  | .pattern j => patternWrite j b s
  | .undecoded => s

/-- `command_rop_write(v)` (R142): `rop` first, then the command; bytes 1 and 2 reach undecoded offsets. -/
def commandRopWrite (v : Word) (s : State) : State := commandWrite (byteAt v 0) (ropWrite (byteAt v 3) s)

/-! ## Window reads -/

/-- `reg_read_byte(o)` (R149), byte `k` of the read transaction under way: the command register reads as a free value
(R152), an undecoded offset as `UNDECODED_READ` (R153). -/
def regReadByte (o : Byte) (k : Nat) (s : State) : Byte :=
  match windowReg o with
  | .command => Config.freeByte s.draws k
  | .rop => s.rop
  | .flags l => getByte32 s.flags l
  | .fgCol l => getByte32 s.fgCol l
  | .bgCol l => getByte32 s.bgCol l
  | .dstX l => getByte16 s.dstX l
  | .dstY l => getByte16 s.dstY l
  | .srcX l => getByte16 s.srcX l
  | .srcY l => getByte16 s.srcY l
  | .sizeX l => getByte16 s.sizeX l
  | .sizeY l => getByte16 s.sizeY l
  | .style l => getByte32 s.style l
  | .clipLeft l => getByte16 s.clipLeft l
  | .clipTop l => getByte16 s.clipTop l
  | .clipRight l => getByte16 s.clipRight l
  | .clipBottom l => getByte16 s.clipBottom l
  | .ckey l => getByte32 s.ckey l
  | .pattern j => patByte s j
  | .undecoded => s.cfg.undecodedRead

/-! ## VGA-compatible ports -/

/-- The registers behind the ports of R109. -/
inductive VgaPort where
  | seqIdx | seqData | gdcIdx | gdcData | crtcIdx | crtcData | wbank | rbank
  deriving DecidableEq, Repr

/-- The ports of R109, the bank registers where `BINDING` puts them; the index and data ports come first
(notes/assumptions/10.md). -/
def vgaPort (cfg : Config) (q : Half) : Option VgaPort :=
  if q = 0x3C4 then some .seqIdx
  else if q = 0x3C5 then some .seqData
  else if q = 0x3CE then some .gdcIdx
  else if q = 0x3CF then some .gdcData
  else if q = 0x3D4 then some .crtcIdx
  else if q = 0x3D5 then some .crtcData
  else if q = cfg.binding.wbankPort then some .wbank
  else if q = cfg.binding.rbankPort then some .rbank
  else none

/-- A store to `crtc[crtc_idx]`, which emits `recalc_timings()` for an index in `TIMING_INDICES` (R155, R157). The
mapping-control fields are views of the banks, so the remap of R158 is implicit. -/
def crtcStore (b : Byte) (s : State) : State :=
  { s with
    crtc := s.crtc.set s.crtcIdx.toNat b s.crtcIdx.isLt
    recalcs := if inTimingIndices s.cfg s.crtcIdx then s.recalcs + 1 else s.recalcs }

/-- A store to `seq[seq_idx]` (R155, R158). -/
def seqStore (b : Byte) (s : State) : State := { s with seq := s.seq.set s.seqIdx.toNat b s.seqIdx.isLt }

/-- A store to `gdc[gdc_idx]` (R155, R158). -/
def gdcStore (b : Byte) (s : State) : State := { s with gdc := s.gdc.set s.gdcIdx.toNat b s.gdcIdx.isLt }

/-- `vga_write_byte` (R155, R156). -/
def vgaWriteByte (p : VgaPort) (b : Byte) (s : State) : State :=
  match p with
  | .seqIdx => { s with seqIdx := b }
  | .seqData => seqStore b s
  | .gdcIdx => { s with gdcIdx := b }
  | .gdcData => gdcStore b s
  | .crtcIdx => { s with crtcIdx := b }
  | .crtcData => crtcStore b s
  | .wbank => { s with wbankReg := b }
  | .rbank => { s with rbankReg := b }

/-- `vga_read_byte` (R155); the bank registers read as free values (R156). -/
def vgaReadByte (p : VgaPort) (k : Nat) (s : State) : Byte :=
  match p with
  | .seqIdx => s.seqIdx
  | .seqData => bankByte s .seq s.seqIdx
  | .gdcIdx => s.gdcIdx
  | .gdcData => bankByte s .gdc s.gdcIdx
  | .crtcIdx => s.crtcIdx
  | .crtcData => bankByte s .crtc s.crtcIdx
  | .wbank => Config.freeByte s.draws k
  | .rbank => Config.freeByte s.draws k

/-! ## I/O port decode -/

/-- A port of the accelerator register file, 0x2120–0x21FF (R92, R154). -/
def isAccelPort (q : Half) : Bool := decide (0x2120 ≤ q.toNat ∧ q.toNat ≤ 0x21FF)

/-- `io_write_byte(q, b)` (R154); a port the block does not claim is left alone. -/
def ioWriteByte (q : Half) (b : Byte) (s : State) : State :=
  if isAccelPort q then regWriteByte ((q - 0x2100).setWidth 8) b s
  else
    match vgaPort s.cfg q with
    | some p => vgaWriteByte p b s
    | none => s

/-- The bytes of an I/O write, each at its own port modulo 2^16 (R154). -/
def ioWriteBytes : Half → List Byte → State → State
  | _, [], s => s
  | q, b :: bs, s => ioWriteBytes (q + 1) bs (ioWriteByte q b s)

/-- `IoWrite(p, n, v)` (R154): the long write at 0x2124 is the atomic command word. -/
def ioWrite (p : Half) (n : Width) (v : Word) (s : State) : State :=
  if p = 0x2124 ∧ n = .b4 then commandRopWrite v s else ioWriteBytes p (bytesOf n.bytes v) s

/-- `io_read_byte(q)` (R154); a port the block does not claim reads as a free value. -/
def ioReadByte (q : Half) (k : Nat) (s : State) : Byte :=
  if isAccelPort q then regReadByte ((q - 0x2100).setWidth 8) k s
  else
    match vgaPort s.cfg q with
    | some p => vgaReadByte p k s
    | none => Config.freeByte s.draws k

/-- `IoRead(p, n)` (R154): byte `k` from port `p + k` modulo 2^16. -/
def ioRead (p : Half) (n : Width) (s : State) : Word :=
  wordOfBytes ((List.range n.bytes).map (fun k => ioReadByte (p + BitVec.ofNat 16 k) k s))

end Sys2Proof.Machine
end

