-- ==== Sys2Proof/Machine/HostMemory.lean ====
section
/-!
DEFINITION. Host memory transactions (spec/42_mapping.md R180 to R189): framebuffer bytes, register-aperture bytes, the
feed, the atomic command word, and the Gen0 sub-modes.
-/

namespace Sys2Proof.Machine

/-- `fb_write(i, b)` (R184, R188): a plain byte of video memory, or the Gen0 function of the sub-mode, which is refused
where the configuration does not supply it. -/
def fbWrite (i : Nat) (b : Byte) (s : State) : Except Refusal State :=
  match subMode s with
  | .normal => .ok (vramWrite s i b)
  | .mono =>
    if s.cfg.gen0MonoWriteGiven then .ok (vramWriteCells s (Config.gen0MonoWrite s i b)) else .error .gen0SubMode
  | .latch =>
    if s.cfg.gen0LatchWriteGiven then .ok (vramWriteCells s (Config.gen0LatchWrite s i b)) else .error .gen0SubMode

/-- `fb_read(i)` (R187, R188): only the latch sub-mode swaps the read, filling the latch. -/
def fbRead (i : Nat) (s : State) : Except Refusal (Byte × State) :=
  match subMode s with
  | .normal => .ok (s.vram.read i, s)
  | .mono => .ok (s.vram.read i, s)
  | .latch =>
    if s.cfg.gen0LatchReadGiven then
      .ok ((Config.gen0LatchRead s i).1, { s with latch := (Config.gen0LatchRead s i).2 })
    else .error .gen0SubMode

/-- A window offset inside the MMIO aperture (R177). -/
def mmioWindow (m : Half) : Bool := decide (0x2100 ≤ m.toNat ∧ m.toNat ≤ 0x21FF)

/-- An MMIO-aperture byte write (R183, R186): the window, a port of R109, or nothing. -/
def mmioWriteByte (m : Half) (b : Byte) (s : State) : State :=
  if mmioWindow m then regWriteByte ((m - 0x2100).setWidth 8) b s
  else
    match vgaPort s.cfg m with
    | some p => vgaWriteByte p b s
    | none => s

/-- An MMIO-aperture byte read (R187): an undecoded offset reads as `UNDECODED_READ`. -/
def mmioReadByte (m : Half) (k : Nat) (s : State) : Byte :=
  if mmioWindow m then regReadByte ((m - 0x2100).setWidth 8) k s
  else
    match vgaPort s.cfg m with
    | some p => vgaReadByte p k s
    | none => s.cfg.undecodedRead

/-- `byte_write(a, b)` (R183); an unclaimed address is left alone (R189). -/
def memWriteByte (a : Word) (b : Byte) (s : State) : Except Refusal State :=
  match route s a with
  | .banked w => fbWrite (bankedIndex s (writeBank s) w) b s
  | .linear l => fbWrite (linearIndex s l) b s
  | .accel o => .ok (regWriteByte o b s)
  | .mmio m => .ok (mmioWriteByte m b s)
  | .unclaimed => .ok s

/-- The bytes of a host memory write, each routed on its own in the state the one before it left (R183). -/
def memWriteBytes : Word → List Byte → State → Except Refusal State
  | _, [], s => .ok s
  | a, b :: bs, s =>
    match memWriteByte a b s with
    | .ok s' => memWriteBytes (a + 1) bs s'
    | .error r => .error r

/-- The first byte of a write reaches the command word's window offset 0x24 (R180, R181). -/
def isCommandWord (t : Route) : Bool := decide (t = .accel 0x24 ∨ t = .mmio 0x2124)

/-- `MemWrite(a, n, v)` (R180): a feed while `busy`, the atomic command word, or the bytes one by one. -/
def memWrite (a : Word) (n : Width) (v : Word) (s : State) : Except Refusal State :=
  if busy s && isFeedRoute s.cfg (route s a) then .ok (feed (bytesOf n.bytes v) s)
  else if isCommandWord (route s a) && decide (n = .b4) then .ok (commandRopWrite v s)
  else memWriteBytes a (bytesOf n.bytes v) s

/-- `byte_read(a)` (R187), byte `k` of the read under way; an unclaimed address reads as a free value (R189). -/
def memReadByte (a : Word) (k : Nat) (s : State) : Except Refusal (Byte × State) :=
  match route s a with
  | .banked w => fbRead (bankedIndex s (readBank s) w) s
  | .linear l => fbRead (linearIndex s l) s
  | .accel o => .ok (regReadByte o k s, s)
  | .mmio m => .ok (mmioReadByte m k s, s)
  | .unclaimed => .ok (Config.freeByte s.draws k, s)

/-- The `n` bytes of a host memory read from byte `k` on, in address order (R187). -/
def memReadBytes : Nat → Word → Nat → State → Except Refusal (List Byte × State)
  | _, _, 0, s => .ok ([], s)
  | k, a, n + 1, s =>
    match memReadByte a k s with
    | .error r => .error r
    | .ok (b, s') =>
      match memReadBytes (k + 1) (a + 1) n s' with
      | .error r => .error r
      | .ok (bs, s'') => .ok (b :: bs, s'')

/-- `MemRead(a, n)` (R187). -/
def memRead (a : Word) (n : Width) (s : State) : Except Refusal State :=
  match memReadBytes 0 a n.bytes s with
  | .error r => .error r
  | .ok (bs, s') => .ok (finishRead s' (wordOfBytes bs))

end Sys2Proof.Machine
end

