-- ==== Sys2Proof/Machine/Blit.lean ====
section
/-!
DEFINITION. The meanings of the command rows and of `FEED` (spec/44_blit_commands.md R230 to R260). A command row is the
byte of its code written to the command register (spec/41_register_file.md R143): the code is stored, an awaiting command
is aborted, the registers are snapshotted and the command runs. No command writes a register back (D43).
-/

namespace Sys2Proof.Machine

/-- BITBLT, code 0x01: the source form is chosen by `flags` and `use_src` (R230). -/
def execBitblt (s : State) : Host.Outcome State Fault Refusal :=
  .next (bitbltStart (snapshot (acceptCommand 0x01 s)) (acceptCommand 0x01 s))

/-- BITBLT.DISPLAY: code 0x01 where `SRCDISP` = 1 (R231). Where the flags select another form, the code 0x01 runs that
form (R230; notes/assumptions/7.md). -/
def execBitbltDisplay (s : State) : Host.Outcome State Fault Refusal :=
  if srcDisp s.flags then .next (bitbltDisplay (snapshot (acceptCommand 0x01 s)) (acceptCommand 0x01 s))
  else .next (commandWrite 0x01 s)

/-- BITBLT.PATTERN: code 0x01 where `SRCDISP` = 0 and `SRCPAT` = 1 (R232), else as R230. -/
def execBitbltPattern (s : State) : Host.Outcome State Fault Refusal :=
  if !srcDisp s.flags && srcPat s.flags then
    .next (bitbltPattern (snapshot (acceptCommand 0x01 s)) (acceptCommand 0x01 s))
  else .next (commandWrite 0x01 s)

/-- BITBLT.CPU_NATIVE: code 0x01 where the source is native CPU data the ROP reads (R233), else as R230. -/
def execBitbltCpuNative (s : State) : Host.Outcome State Fault Refusal :=
  if !srcDisp s.flags && !srcPat s.flags && !srcMono s.flags && s.useSrc != 0 then
    .next (bitbltAwait (snapshot (acceptCommand 0x01 s)) (acceptCommand 0x01 s))
  else .next (commandWrite 0x01 s)

/-- BITBLT.CPU_MONO: code 0x01 where the source is monochrome CPU data the ROP reads (R234), else as R230. -/
def execBitbltCpuMono (s : State) : Host.Outcome State Fault Refusal :=
  if !srcDisp s.flags && !srcPat s.flags && srcMono s.flags && s.useSrc != 0 then
    .next (bitbltAwait (snapshot (acceptCommand 0x01 s)) (acceptCommand 0x01 s))
  else .next (commandWrite 0x01 s)

/-- BITBLT.ZERO_STREAM: code 0x01 where the source is the CPU and the ROP ignores it (R235), else as R230. -/
def execBitbltZeroStream (s : State) : Host.Outcome State Fault Refusal :=
  if !srcDisp s.flags && !srcPat s.flags && s.useSrc == 0 then
    .next (bitbltZeroStream (snapshot (acceptCommand 0x01 s)) (acceptCommand 0x01 s))
  else .next (commandWrite 0x01 s)

/-- SCANLINE, code 0x03 (R240). -/
def execScanline (s : State) : Host.Outcome State Fault Refusal :=
  .next (runScanline (snapshot (acceptCommand 0x03 s)) (acceptCommand 0x03 s))

/-- BRESENHAM, code 0x04 (R245). -/
def execBresenham (s : State) : Host.Outcome State Fault Refusal :=
  .next (runBresenham (snapshot (acceptCommand 0x04 s)) (acceptCommand 0x04 s))

/-- SHORTVEC, code 0x05 (R250). -/
def execShortvec (s : State) : Host.Outcome State Fault Refusal :=
  .next (runShortvec (snapshot (acceptCommand 0x05 s)) (acceptCommand 0x05 s))

/-- FASTLINE, code 0x06: a no-operation on a generation without fast line (R255, R260). -/
def execFastline (s : State) : Host.Outcome State Fault Refusal :=
  if hasFastline s.cfg then .next (runFastline (snapshot (acceptCommand 0x06 s)) (acceptCommand 0x06 s))
  else .next (acceptCommand 0x06 s)

/-- NOP_CMD, any other code: the abort and nothing else (R260). A code that names a command is that command's byte
(notes/assumptions/7.md). -/
def execNopCmd (code : Byte) (s : State) : Host.Outcome State Fault Refusal :=
  if namedCommandCode code then .next (commandWrite code s) else .next (acceptCommand code s)

/-- FEED: a host memory write to a feed aperture while `busy` is CPU data (R236, R221). Anywhere else it is the plain
`MemWrite` of R180 (notes/assumptions/7.md). -/
def execFeed (addr : Word) (n : Width) (v : Word) (s : State) : Host.Outcome State Fault Refusal :=
  if busy s && isFeedRoute s.cfg (route s addr) then .next (feed (bytesOf n.bytes v) s)
  else outcomeOf (memWrite addr n v s)

end Sys2Proof.Machine
end

