-- ==== Sys2Proof/Machine/Events.lean ====
section
/-!
DEFINITION. The meanings of the collaborator events and of reset (spec/30_encoding.md R91, spec/10_state.md R31,
spec/42_mapping.md R171, spec/20_memory.md R66, spec/70_reset_and_hazards.md R290, R294).
-/

namespace Sys2Proof.Machine

/-- mode_update(disp_bpp, rowoffset): the mode inputs change at once, also under an awaiting command (R31, R301). -/
def execModeUpdate (dispBpp rowOffset : Word) (s : State) : Host.Outcome State Fault Refusal :=
  .next { s with rowOffset := rowOffset, accelBpp := accelBppOf dispBpp }

/-- pci_set_mem_enable(b) (R171). On a non-PCI instance `pci_mem_en` is fixed (R35; notes/assumptions/12.md). -/
def execPciSetMemEnable (b : Bool) (s : State) : Host.Outcome State Fault Refusal :=
  if s.cfg.isPci then .next { s with pciMemEn := b } else .next s

/-- pci_set_bar(k, base): BAR 0 is the linear base, BAR 1 the MMIO base, any other has no effect (R171). On a non-PCI
instance there is no BAR (notes/assumptions/12.md). -/
def execPciSetBar (k : Byte) (base : Word) (s : State) : Host.Outcome State Fault Refusal :=
  if s.cfg.isPci then
    if k = 0 then .next { s with linearBase := base }
    else if k = 1 then .next { s with mmioBase := base }
    else .next s
  else .next s

/-- clear_dirty(page) (R66). -/
def execClearDirty (page : Word) (s : State) : Host.Outcome State Fault Refusal :=
  .next { s with dirty := cleanPage s.dirty page.toNat }

/-- reset(): device attach (R290, R291), the video memory again `VRAM_INIT` (R294). The configuration and the host's side
of the model stay (notes/assumptions/17.md). -/
def execReset (s : State) : Host.Outcome State Fault Refusal :=
  .next { State.attach s.cfg with readData := s.readData, draws := s.draws, pending := s.pending }

end Sys2Proof.Machine
end

