-- ==== Sys2Proof/Machine/Ports.lean ====
section
/-!
DEFINITION. The meanings of the I/O port byte rows (spec/30_encoding.md R109, spec/41_register_file.md R155 to R158): each
port's write and its read.
-/

namespace Sys2Proof.Machine

/-- A port read returns one byte, zero-extended (R155). -/
def portRead (p : VgaPort) (s : State) : State := finishRead s ((vgaReadByte p 0 s).setWidth 32)

/-- PORT.SEQ_IDX: the sequencer index, port 0x3C4 (R155). -/
def execPortSeqIdx (op : PortOp) (s : State) : Host.Outcome State Fault Refusal :=
  match op with
  | .write v => .next { s with seqIdx := v }
  | .read => .next (portRead .seqIdx s)

/-- PORT.SEQ_DATA: `seq[seq_idx]`, port 0x3C5 (R155, R158). -/
def execPortSeqData (op : PortOp) (s : State) : Host.Outcome State Fault Refusal :=
  match op with
  | .write v => .next (seqStore v s)
  | .read => .next (portRead .seqData s)

/-- PORT.GDC_IDX: the graphics-controller index, port 0x3CE (R155). -/
def execPortGdcIdx (op : PortOp) (s : State) : Host.Outcome State Fault Refusal :=
  match op with
  | .write v => .next { s with gdcIdx := v }
  | .read => .next (portRead .gdcIdx s)

/-- PORT.GDC_DATA: `gdc[gdc_idx]`, port 0x3CF (R155, R158). -/
def execPortGdcData (op : PortOp) (s : State) : Host.Outcome State Fault Refusal :=
  match op with
  | .write v => .next (gdcStore v s)
  | .read => .next (portRead .gdcData s)

/-- PORT.CRTC_IDX: the CRTC index, port 0x3D4 (R155). -/
def execPortCrtcIdx (op : PortOp) (s : State) : Host.Outcome State Fault Refusal :=
  match op with
  | .write v => .next { s with crtcIdx := v }
  | .read => .next (portRead .crtcIdx s)

/-- PORT.CRTC_DATA: `crtc[crtc_idx]`, port 0x3D5, with the timing hook (R155, R157, R158). -/
def execPortCrtcData (op : PortOp) (s : State) : Host.Outcome State Fault Refusal :=
  match op with
  | .write v => .next (crtcStore v s)
  | .read => .next (portRead .crtcData s)

/-- PORT.WBANK: the write-bank register, reference port 0x3D8; it reads as a free value (R156). -/
def execPortWbank (op : PortOp) (s : State) : Host.Outcome State Fault Refusal :=
  match op with
  | .write v => .next { s with wbankReg := v }
  | .read => .next (portRead .wbank s)

/-- PORT.RBANK: the read-bank register, reference port 0x3D9; it reads as a free value (R156). -/
def execPortRbank (op : PortOp) (s : State) : Host.Outcome State Fault Refusal :=
  match op with
  | .write v => .next { s with rbankReg := v }
  | .read => .next (portRead .rbank s)

end Sys2Proof.Machine
end

