-- ==== Sys2Proof/Machine/Transactions.lean ====
section
/-!
DEFINITION. The meanings of the four host transactions (spec/41_register_file.md R154, spec/42_mapping.md R180, R187).
-/

namespace Sys2Proof.Machine

/-- IoWrite(port, n, v) (R154). -/
def execIoWrite (port : Half) (n : Width) (v : Word) (s : State) : Host.Outcome State Fault Refusal :=
  .next (ioWrite port n v s)

/-- IoRead(port, n) (R154). -/
def execIoRead (port : Half) (n : Width) (s : State) : Host.Outcome State Fault Refusal :=
  .next (finishRead s (ioRead port n s))

/-- MemWrite(addr, n, v) (R180): refused only where a byte reaches a Gen0 sub-mode whose function the configuration does
not supply (R188, R273). -/
def execMemWrite (addr : Word) (n : Width) (v : Word) (s : State) : Host.Outcome State Fault Refusal :=
  outcomeOf (memWrite addr n v s)

/-- MemRead(addr, n) (R187): refused only as R188 and R273 say. -/
def execMemRead (addr : Word) (n : Width) (s : State) : Host.Outcome State Fault Refusal :=
  outcomeOf (memRead addr n s)

end Sys2Proof.Machine
end

