-- ==== Sys2Proof/Machine/WindowReads.lean ====
section
/-!
DEFINITION. The meanings of the window byte read rows (spec/41_register_file.md R149 to R153). A read has no side effect on
the block (R72).
-/

namespace Sys2Proof.Machine

/-- RD.WINDOW: one byte of the window, zero-extended (R149, R151, R152, R153). -/
def execRdWindow (o : Byte) (s : State) : Host.Outcome State Fault Refusal :=
  .next (finishRead s ((regReadByte o 0 s).setWidth 32))

/-- RD.UNDECODED: an undecoded offset returns `UNDECODED_READ` (R153). An offset the map decodes is that register's
(notes/assumptions/7.md). -/
def execRdUndecoded (o : Byte) (s : State) : Host.Outcome State Fault Refusal :=
  if undecodedOffset o then .next (finishRead s (s.cfg.undecodedRead.setWidth 32))
  else .next (finishRead s ((regReadByte o 0 s).setWidth 32))

end Sys2Proof.Machine
end

