-- ==== Sys2Proof/Machine/WindowWrites.lean ====
section
/-!
DEFINITION. The meanings of the window byte write rows and of the atomic command word (spec/41_register_file.md R140 to
R150). Each is one byte, from any path, that reaches the offset its row names (notes/assumptions/8.md).
-/

namespace Sys2Proof.Machine

/-- WR.COMMAND, offset 0x24: the byte is stored and starts the command it names (R143). -/
def execWrCommand (b : Byte) (s : State) : Host.Outcome State Fault Refusal := .next (commandWrite b s)

/-- WR.COMMAND_ROP, a long write at offset 0x24: `rop` from bits 31:24 first, then the command of bits 7:0 (R142). -/
def execWrCommandRop (v : Word) (s : State) : Host.Outcome State Fault Refusal := .next (commandRopWrite v s)

/-- WR.ROP, offset 0x27 (R144). -/
def execWrRop (b : Byte) (s : State) : Host.Outcome State Fault Refusal := .next (ropWrite b s)

/-- WR.FLAGS, offsets 0x28–0x2B (R145). -/
def execWrFlags (lane : BitVec 2) (b : Byte) (s : State) : Host.Outcome State Fault Refusal :=
  .next { s with flags := setByte32 s.flags lane b }

/-- WR.FG_COL, offsets 0x2C–0x2F (R145). -/
def execWrFgCol (lane : BitVec 2) (b : Byte) (s : State) : Host.Outcome State Fault Refusal :=
  .next { s with fgCol := setByte32 s.fgCol lane b }

/-- WR.BG_COL, offsets 0x30–0x33 (R145). -/
def execWrBgCol (lane : BitVec 2) (b : Byte) (s : State) : Host.Outcome State Fault Refusal :=
  .next { s with bgCol := setByte32 s.bgCol lane b }

/-- WR.DST_X, offsets 0x38–0x39 (R145). -/
def execWrDstX (lane : BitVec 1) (b : Byte) (s : State) : Host.Outcome State Fault Refusal :=
  .next { s with dstX := setByte16 s.dstX lane b }

/-- WR.DST_Y, offsets 0x3A–0x3B (R145). -/
def execWrDstY (lane : BitVec 1) (b : Byte) (s : State) : Host.Outcome State Fault Refusal :=
  .next { s with dstY := setByte16 s.dstY lane b }

/-- WR.SRC_X, offsets 0x3C–0x3D (sign-extended from 13 bits, R146). -/
def execWrSrcX (lane : BitVec 1) (b : Byte) (s : State) : Host.Outcome State Fault Refusal :=
  .next { s with srcX := sx13 (setByte16 s.srcX lane b) }

/-- WR.SRC_Y, offsets 0x3E–0x3F (sign-extended from 13 bits, R146). -/
def execWrSrcY (lane : BitVec 1) (b : Byte) (s : State) : Host.Outcome State Fault Refusal :=
  .next { s with srcY := sx13 (setByte16 s.srcY lane b) }

/-- WR.SIZE_X, offsets 0x40–0x41 (sign-extended from 14 bits, R146). -/
def execWrSizeX (lane : BitVec 1) (b : Byte) (s : State) : Host.Outcome State Fault Refusal :=
  .next { s with sizeX := sx14 (setByte16 s.sizeX lane b) }

/-- WR.SIZE_Y, offsets 0x42–0x43 (R145). -/
def execWrSizeY (lane : BitVec 1) (b : Byte) (s : State) : Host.Outcome State Fault Refusal :=
  .next { s with sizeY := setByte16 s.sizeY lane b }

/-- WR.STYLE, offsets 0x44–0x47 (R145). -/
def execWrStyle (lane : BitVec 2) (b : Byte) (s : State) : Host.Outcome State Fault Refusal :=
  .next { s with style := setByte32 s.style lane b }

/-- WR.CLIP_LEFT, offsets 0x48–0x49 (R145). -/
def execWrClipLeft (lane : BitVec 1) (b : Byte) (s : State) : Host.Outcome State Fault Refusal :=
  .next { s with clipLeft := setByte16 s.clipLeft lane b }

/-- WR.CLIP_TOP, offsets 0x4A–0x4B (R145). -/
def execWrClipTop (lane : BitVec 1) (b : Byte) (s : State) : Host.Outcome State Fault Refusal :=
  .next { s with clipTop := setByte16 s.clipTop lane b }

/-- WR.CLIP_RIGHT, offsets 0x4C–0x4D (R145). -/
def execWrClipRight (lane : BitVec 1) (b : Byte) (s : State) : Host.Outcome State Fault Refusal :=
  .next { s with clipRight := setByte16 s.clipRight lane b }

/-- WR.CLIP_BOTTOM, offsets 0x4E–0x4F (R145). -/
def execWrClipBottom (lane : BitVec 1) (b : Byte) (s : State) : Host.Outcome State Fault Refusal :=
  .next { s with clipBottom := setByte16 s.clipBottom lane b }

/-- WR.CKEY, offsets 0x68–0x6B (R145). -/
def execWrCkey (lane : BitVec 2) (b : Byte) (s : State) : Host.Outcome State Fault Refusal :=
  .next { s with ckey := setByte32 s.ckey lane b }

/-- WR.FG_COL_MIRROR, offsets 0x78–0x7B (the same register as 0x2C–0x2F, R147). -/
def execWrFgColMirror (lane : BitVec 2) (b : Byte) (s : State) : Host.Outcome State Fault Refusal :=
  .next { s with fgCol := setByte32 s.fgCol lane b }

/-- WR.BG_COL_MIRROR, offsets 0x7C–0x7F (the same register as 0x30–0x33, R147). -/
def execWrBgColMirror (lane : BitVec 2) (b : Byte) (s : State) : Host.Outcome State Fault Refusal :=
  .next { s with bgCol := setByte32 s.bgCol lane b }

/-- WR.PATTERN, offsets 0x80–0xFF: cell `j` and the rolling 32bpp buffer (R150). -/
def execWrPattern (j : BitVec 7) (b : Byte) (s : State) : Host.Outcome State Fault Refusal := .next (patternWrite j b s)

/-- WR.UNDECODED: a byte at an undecoded offset has no effect (R148). An offset the map decodes is that register's
(notes/assumptions/7.md). -/
def execWrUndecoded (o b : Byte) (s : State) : Host.Outcome State Fault Refusal :=
  if undecodedOffset o then .next s else .next (regWriteByte o b s)

end Sys2Proof.Machine
end

