-- ==== Sys2Proof/Machine/Dispatch.lean ====
section
/-!
DEFINITION. One arm for each instruction: the direct call of its meaning.
-/

namespace Sys2Proof.Machine

def exec (i : Instr) (s : State) : Host.Outcome State Fault Refusal :=
  match i with
  | .bitblt => Sys2Proof.Machine.execBitblt s
  | .bitbltDisplay => Sys2Proof.Machine.execBitbltDisplay s
  | .bitbltPattern => Sys2Proof.Machine.execBitbltPattern s
  | .bitbltCpuNative => Sys2Proof.Machine.execBitbltCpuNative s
  | .bitbltCpuMono => Sys2Proof.Machine.execBitbltCpuMono s
  | .bitbltZeroStream => Sys2Proof.Machine.execBitbltZeroStream s
  | .scanline => Sys2Proof.Machine.execScanline s
  | .bresenham => Sys2Proof.Machine.execBresenham s
  | .shortvec => Sys2Proof.Machine.execShortvec s
  | .fastline => Sys2Proof.Machine.execFastline s
  | .nopCmd code => Sys2Proof.Machine.execNopCmd code s
  | .feed addr n v => Sys2Proof.Machine.execFeed addr n v s
  | .wrCommand b => Sys2Proof.Machine.execWrCommand b s
  | .wrCommandRop v => Sys2Proof.Machine.execWrCommandRop v s
  | .wrRop b => Sys2Proof.Machine.execWrRop b s
  | .wrFlags lane b => Sys2Proof.Machine.execWrFlags lane b s
  | .wrFgCol lane b => Sys2Proof.Machine.execWrFgCol lane b s
  | .wrBgCol lane b => Sys2Proof.Machine.execWrBgCol lane b s
  | .wrDstX lane b => Sys2Proof.Machine.execWrDstX lane b s
  | .wrDstY lane b => Sys2Proof.Machine.execWrDstY lane b s
  | .wrSrcX lane b => Sys2Proof.Machine.execWrSrcX lane b s
  | .wrSrcY lane b => Sys2Proof.Machine.execWrSrcY lane b s
  | .wrSizeX lane b => Sys2Proof.Machine.execWrSizeX lane b s
  | .wrSizeY lane b => Sys2Proof.Machine.execWrSizeY lane b s
  | .wrStyle lane b => Sys2Proof.Machine.execWrStyle lane b s
  | .wrClipLeft lane b => Sys2Proof.Machine.execWrClipLeft lane b s
  | .wrClipTop lane b => Sys2Proof.Machine.execWrClipTop lane b s
  | .wrClipRight lane b => Sys2Proof.Machine.execWrClipRight lane b s
  | .wrClipBottom lane b => Sys2Proof.Machine.execWrClipBottom lane b s
  | .wrCkey lane b => Sys2Proof.Machine.execWrCkey lane b s
  | .wrFgColMirror lane b => Sys2Proof.Machine.execWrFgColMirror lane b s
  | .wrBgColMirror lane b => Sys2Proof.Machine.execWrBgColMirror lane b s
  | .wrPattern j b => Sys2Proof.Machine.execWrPattern j b s
  | .wrUndecoded o b => Sys2Proof.Machine.execWrUndecoded o b s
  | .rdWindow o => Sys2Proof.Machine.execRdWindow o s
  | .rdUndecoded o => Sys2Proof.Machine.execRdUndecoded o s
  | .ioWrite port n v => Sys2Proof.Machine.execIoWrite port n v s
  | .ioRead port n => Sys2Proof.Machine.execIoRead port n s
  | .memWrite addr n v => Sys2Proof.Machine.execMemWrite addr n v s
  | .memRead addr n => Sys2Proof.Machine.execMemRead addr n s
  | .portSeqIdx op => Sys2Proof.Machine.execPortSeqIdx op s
  | .portSeqData op => Sys2Proof.Machine.execPortSeqData op s
  | .portGdcIdx op => Sys2Proof.Machine.execPortGdcIdx op s
  | .portGdcData op => Sys2Proof.Machine.execPortGdcData op s
  | .portCrtcIdx op => Sys2Proof.Machine.execPortCrtcIdx op s
  | .portCrtcData op => Sys2Proof.Machine.execPortCrtcData op s
  | .portWbank op => Sys2Proof.Machine.execPortWbank op s
  | .portRbank op => Sys2Proof.Machine.execPortRbank op s
  | .modeUpdate dispBpp rowOffset => Sys2Proof.Machine.execModeUpdate dispBpp rowOffset s
  | .pciSetMemEnable b => Sys2Proof.Machine.execPciSetMemEnable b s
  | .pciSetBar k base => Sys2Proof.Machine.execPciSetBar k base s
  | .clearDirty page => Sys2Proof.Machine.execClearDirty page s
  | .reset => Sys2Proof.Machine.execReset s

end Sys2Proof.Machine
end

