-- ==== Sys2Proof/Machine/Step.lean ====
section
/-!
DEFINITION. One step: the next host transaction, decoded and performed (spec/00_scope.md R8, spec/20_memory.md R73, R74).
The block fetches nothing (spec/10_state.md R21): the transactions come from the host, which State holds as a queue
(notes/assumptions/2.md).
-/

namespace Sys2Proof.Machine

/-- One step. With no transaction to perform the block does nothing (R18, R280); a record that is no transaction of the
spec is refused by name; else the decoded instruction runs. -/
def step (s : State) : Host.Outcome State Fault Refusal :=
  match fetchTx s with
  | none => .next s
  | some (t, s') =>
    match decode t with
    | .ok i => exec i s'
    | .error e => .refused (.undecodable e)

/-- The state with a bare opcode-table word of `nbits` bits as the host's next transaction. -/
def State.withFetchWord (s : State) (nbits w : Nat) : State := placeTx (tableTx nbits w) s

end Sys2Proof.Machine
end

