-- ==== Sys2Proof/Safety.lean ====
section
/-!
DEFINITION. The terms the claims use: well-formed configurations and states, byte lanes, the bytes of an element, the
pixels of a rectangle and of a line, and the frame of an engine command.
-/

namespace Sys2Proof.Machine

/-- The initial video memory of a configuration is canonical and inside VRAM (R38). -/
def ConfigWf (cfg : Config) : Prop :=
  Memory.wf cfg.vramInit ∧ ∀ c ∈ cfg.vramInit, c.1 < cfg.vramSize.bytes

/-- What holds of a continuation that awaits CPU data: the source is the CPU and the ROP reads it (R41, R230), the
cursors are inside the rectangle (R216), and fewer bytes are held than the widest element needs (R45). -/
structure ContWf (c : Cont) : Prop where
  cpuSource : srcDisp c.flags = false ∧ srcPat c.flags = false
  ropReads : useSrcOf c.rop ≠ 0
  xRange : c.x.toNat ≤ extent c.sizeX
  yRange : c.y.toNat ≤ extent c.sizeY
  residualShort : c.residual.length < 4

/-- The invariant of the block: video memory in canonical form and inside VRAM, dirty pages that exist, `use_src`
derived from `rop` (R24), the sign-extended registers extended (R146), the fixed bus fields of a non-PCI instance (R35),
the IRQ output deasserted (R274), and an awaiting command that is a CPU-source BitBLT (R41). -/
structure StateWf (s : State) : Prop where
  configWf : ConfigWf s.cfg
  vramWf : Memory.wf s.vram
  vramInside : ∀ c ∈ s.vram, c.1 < s.cfg.vramSize.bytes
  dirtyRising : s.dirty.Pairwise (· < ·)
  dirtyInside : ∀ p ∈ s.dirty, p < s.cfg.vramSize.bytes / 4096
  useSrcDerived : s.useSrc = useSrcOf s.rop
  srcXExtended : sx13 s.srcX = s.srcX
  srcYExtended : sx13 s.srcY = s.srcY
  sizeXExtended : sx14 s.sizeX = s.sizeX
  busFixed : s.cfg.isPci = false → s.pciMemEn = true ∧ s.linearBase = s.cfg.vlbLinearBase
  irqLow : s.irq = false
  awaiting : ∀ c, s.eng = .awaitSrc c → s.command = 0x01 ∧ ContWf c

/-- A 32-bit register takes a byte into one lane and keeps the other lanes (R106). -/
def Lane32 (old new : Word) (lane : BitVec 2) (b : Byte) : Prop :=
  getByte32 new lane = b ∧ ∀ l, l ≠ lane → getByte32 new l = getByte32 old l

/-- A 16-bit register takes a byte into one lane and keeps the other lane (R106). -/
def Lane16 (old new : Half) (lane : BitVec 1) (b : Byte) : Prop :=
  getByte16 new lane = b ∧ ∀ l, l ≠ lane → getByte16 new l = getByte16 old l

/-- An instruction reads: it hands a value to the host and changes nothing else of the block (R72). -/
def Reads (i : Instr) (s : State) (v : Word) : Prop :=
  exec i s = .next { s with readData := v, draws := s.draws + 1 }

/-- A host memory write whose first byte is at `a` is no CPU data: the engine does not await data, or the address reaches
no feed aperture (R180). -/
def NotFed (s : State) (a : Word) : Prop := busy s = false ∨ isFeedRoute s.cfg (route s a) = false

/-- Two states that differ at most in video memory, the dirty bitmap and the engine state. -/
def SameButEngine (s t : State) : Prop := t = { s with vram := t.vram, dirty := t.dirty, eng := t.eng }

/-- The frame of an accepted command: besides the command register, at most video memory, the dirty bitmap and the
engine state differ (D43, R44). -/
def CommandFrame (code : Byte) (s t : State) : Prop := SameButEngine { s with command := code } t

/-- Byte address `a` is one of the bytes of the element at offset `off` (R63, R67). -/
def InElem (s : State) (off : Word) (a : Nat) : Prop :=
  elemAddr s off ≤ a ∧ a < elemAddr s off + s.accelBpp.bytes

/-- The continuation of a fresh rectangle at column `i` of row `j` (R216). -/
def contAt (c : Cont) (i j : Nat) : Cont :=
  { c with
    x := BitVec.ofNat 32 i
    y := BitVec.ofNat 32 j
    srcOff := c.srcOff + BitVec.ofNat 32 j * (c.ydir.step * c.pitch) + BitVec.ofNat 32 i * c.xdir.step
    dstOff := c.dstOff + BitVec.ofNat 32 j * (c.ydir.step * c.pitch) + BitVec.ofNat 32 i * c.xdir.step
    rowSrc := c.srcOff + BitVec.ofNat 32 j * (c.ydir.step * c.pitch)
    rowDst := c.dstOff + BitVec.ofNat 32 j * (c.ydir.step * c.pitch)
    dx := c.x0 + BitVec.ofNat 32 i * c.xdir.step
    dy := c.dy + BitVec.ofNat 32 j * c.ydir.step }

/-- Pixel number `k` of a rectangle in x-major, then y-major order (R216). -/
def pixelAt (c : Cont) (k : Nat) : Cont := contAt c (k % (extent c.sizeX + 1)) (k / (extent c.sizeX + 1))

/-- Draw the pixels of a rectangle one after the other, each source read just before its pixel (R75, R216). -/
def drawRectangle (source : State → Cont → Word) (c : Cont) (s : State) : State :=
  (List.range (pixelCount c)).foldl (fun t k => drawPixel (source t (pixelAt c k)) (pixelAt c k) t) s

/-- The cursor of a line after `k` steps (R245, R250). -/
def lineAt (step : LineCursor → LineCursor) (p : LineCursor) : Nat → LineCursor
  | 0 => p
  | k + 1 => step (lineAt step p k)

end Sys2Proof.Machine
end

