-- ==== Sys2Proof/Certificates/Slice0/Obligations.lean ====
section
/-!
DEFINITION. The statements for the provers. Each formalises a numbered rule of spec/, or says that it is the model's own
(and names the log entry).
-/

open Sys2Proof Sys2Proof.Machine

/-! ## Records and steps -/

/-- The decoder reads back the record of every well-formed instruction, with every operand. The records are the model's
own (notes/assumptions/3.md); the codes, offsets and ports in them are those of R94, R104 and R109. -/
def Obligations.DecodeEncodeRoundTrip : Prop :=
  ∀ i : Instr, WellFormed i = true → decode (encode i) = .ok i

/-- Whatever record the decoder accepts, the instruction it reads is well-formed (R90, R98, R104). -/
def Obligations.DecodedInstructionsAreWellFormed : Prop :=
  ∀ (t : Tx) (i : Instr), decode t = .ok i → WellFormed i = true

/-- A few bare words of the opcode table decode to their rows: command codes, window offsets with their lanes, ports. -/
def Obligations.TableWordsDecode : Prop :=
  decodeTableWord 8 0x01 = some .bitblt ∧ decodeTableWord 8 0x03 = some .scanline ∧
  decodeTableWord 8 0x02 = some (.nopCmd 0x02) ∧ decodeTableWord 8 0x27 = some (.wrRop 0) ∧
  decodeTableWord 8 0x2B = some (.wrFlags 3 0) ∧ decodeTableWord 16 0x003D = some (.wrSrcX 1 0) ∧
  decodeTableWord 8 0xFF = some (.wrPattern 0x7F 0) ∧ decodeTableWord 16 0x3D5 = some (.portCrtcData (.write 0))

/-- A step performs the first pending transaction: the instruction its record decodes to, in the state in which it is no
longer pending; with nothing pending the state stays; a record that decodes to nothing is refused by its name
(notes/assumptions/2.md, 3.md). -/
def Obligations.StepRunsDecodedTransaction : Prop :=
  (∀ (s : State) (t : Tx) (ts : List Tx) (i : Instr), s.pending = t :: ts → decode t = .ok i →
    step s = exec i { s with pending := ts }) ∧
  (∀ s : State, s.pending = [] → step s = .next s) ∧
  (∀ (s : State) (t : Tx) (ts : List Tx) (e : DecodeError), s.pending = t :: ts → decode t = .error e →
    step s = .refused (.undecodable e))

/-! ## Raster operations -/

/-- R130: result bit `i` is the code's bit `4·pat[i] + 2·src[i] + dst[i]`, for every code and every operand. -/
def Obligations.MixSelectsCodeBit : Prop :=
  ∀ (rop : Byte) (dst pat src : Word) (i : Nat), i < 32 →
    (mix rop dst pat src).getLsbD i =
      rop.getLsbD (4 * (pat.getLsbD i).toNat + 2 * (src.getLsbD i).toNat + (dst.getLsbD i).toNat)

/-- R133: the code repeated in each byte is what `mix` gives on the three column words. -/
def Obligations.MixTableIdentity : Prop :=
  ∀ c : Byte, mix c 0xAAAAAAAA 0xF0F0F0F0 0xCCCCCCCC = c.setWidth 32 * 0x01010101

/-- R134: a code depends on the source, on the pattern and on the destination exactly when the three masks say so. -/
def Obligations.OperandDependence : Prop :=
  ∀ c : Byte,
    ((c &&& 0x33) ^^^ ((c >>> 2) &&& 0x33) ≠ 0 ↔ ∃ d p s s', mix c d p s ≠ mix c d p s') ∧
    ((c &&& 0x0F) ^^^ (c >>> 4) ≠ 0 ↔ ∃ d p p' s, mix c d p s ≠ mix c d p' s) ∧
    ((c &&& 0x55) ^^^ ((c >>> 1) &&& 0x55) ≠ 0 ↔ ∃ d d' p s, mix c d p s ≠ mix c d' p s)

/-- R132: `mix` acts lane by lane, and truncating the operands to an element first gives the same element. -/
def Obligations.MixActsLanewise : Prop :=
  (∀ (c : Byte) (d p s d' p' s' : Word) (i : Nat), d.getLsbD i = d'.getLsbD i → p.getLsbD i = p'.getLsbD i →
    s.getLsbD i = s'.getLsbD i → (mix c d p s).getLsbD i = (mix c d' p' s').getLsbD i) ∧
  (∀ (e : AccelBpp) (c : Byte) (d p s : Word),
    e.trunc (mix c d p s) = e.trunc (mix c (e.trunc d) (e.trunc p) (e.trunc s)))

/-- R135: the Boolean forms of the named codes. -/
def Obligations.NamedRasterCodes : Prop :=
  ∀ d p s : Word,
    mix 0x00 d p s = 0 ∧ mix 0x11 d p s = ~~~(s ||| d) ∧ mix 0x33 d p s = ~~~s ∧ mix 0x44 d p s = s &&& ~~~d ∧
    mix 0x55 d p s = ~~~d ∧ mix 0x5A d p s = p ^^^ d ∧ mix 0x66 d p s = s ^^^ d ∧ mix 0x88 d p s = s &&& d ∧
    mix 0xAA d p s = d ∧ mix 0xBB d p s = ~~~s ||| d ∧ mix 0xC0 d p s = p &&& s ∧ mix 0xCC d p s = s ∧
    mix 0xEE d p s = s ||| d ∧ mix 0xF0 d p s = p ∧ mix 0xFB d p s = p ||| ~~~s ||| d ∧
    mix 0xFF d p s = BitVec.allOnes 32

/-! ## Window writes and reads -/

/-- R145: each plain register takes the written byte into the lane of its offset, keeps its other lanes, and nothing else
changes. -/
def Obligations.PlainRegisterWritesAccumulate : Prop :=
  ∀ (s : State) (b : Byte),
    (∀ l : BitVec 2,
      (∃ v, Lane32 s.flags v l b ∧ exec (.wrFlags l b) s = .next { s with flags := v }) ∧
      (∃ v, Lane32 s.fgCol v l b ∧ exec (.wrFgCol l b) s = .next { s with fgCol := v }) ∧
      (∃ v, Lane32 s.bgCol v l b ∧ exec (.wrBgCol l b) s = .next { s with bgCol := v }) ∧
      (∃ v, Lane32 s.ckey v l b ∧ exec (.wrCkey l b) s = .next { s with ckey := v }) ∧
      (∃ v, Lane32 s.style v l b ∧ exec (.wrStyle l b) s = .next { s with style := v })) ∧
    (∀ l : BitVec 1,
      (∃ v, Lane16 s.dstX v l b ∧ exec (.wrDstX l b) s = .next { s with dstX := v }) ∧
      (∃ v, Lane16 s.dstY v l b ∧ exec (.wrDstY l b) s = .next { s with dstY := v }) ∧
      (∃ v, Lane16 s.sizeY v l b ∧ exec (.wrSizeY l b) s = .next { s with sizeY := v }) ∧
      (∃ v, Lane16 s.clipLeft v l b ∧ exec (.wrClipLeft l b) s = .next { s with clipLeft := v }) ∧
      (∃ v, Lane16 s.clipTop v l b ∧ exec (.wrClipTop l b) s = .next { s with clipTop := v }) ∧
      (∃ v, Lane16 s.clipRight v l b ∧ exec (.wrClipRight l b) s = .next { s with clipRight := v }) ∧
      (∃ v, Lane16 s.clipBottom v l b ∧ exec (.wrClipBottom l b) s = .next { s with clipBottom := v }))

/-- R147: a byte written at 0x78–0x7B or 0x7C–0x7F is the same byte of the colour register as at 0x2C–0x2F or
0x30–0x33. -/
def Obligations.ColourMirrorsAreTheRegisters : Prop :=
  ∀ (s : State) (l : BitVec 2) (b : Byte),
    decode (encodeWrite (0x78 + l.setWidth 16) b) = .ok (.wrFgColMirror l b) ∧
    decode (encodeWrite (0x7C + l.setWidth 16) b) = .ok (.wrBgColMirror l b) ∧
    decode (encodeWrite (0x2C + l.setWidth 16) b) = .ok (.wrFgCol l b) ∧
    decode (encodeWrite (0x30 + l.setWidth 16) b) = .ok (.wrBgCol l b) ∧
    (∃ v, Lane32 s.fgCol v l b ∧ exec (.wrFgColMirror l b) s = .next { s with fgCol := v } ∧
      exec (.wrFgCol l b) s = .next { s with fgCol := v }) ∧
    (∃ v, Lane32 s.bgCol v l b ∧ exec (.wrBgColMirror l b) s = .next { s with bgCol := v } ∧
      exec (.wrBgCol l b) s = .next { s with bgCol := v })

/-- R146: `src_x` and `src_y` are extended from 13 bits and `size_x` from 14 after every byte written to them; the
extension is idempotent. -/
def Obligations.NarrowRegistersSignExtend : Prop :=
  (∀ (s : State) (l : BitVec 1) (b : Byte),
    (∃ v, Lane16 s.srcX v l b ∧
      exec (.wrSrcX l b) s = .next { s with srcX := if v.getLsbD 12 then v ||| 0xE000 else v }) ∧
    (∃ v, Lane16 s.srcY v l b ∧
      exec (.wrSrcY l b) s = .next { s with srcY := if v.getLsbD 12 then v ||| 0xE000 else v }) ∧
    (∃ v, Lane16 s.sizeX v l b ∧
      exec (.wrSizeX l b) s = .next { s with sizeX := if v.getLsbD 13 then v ||| 0xC000 else v })) ∧
  (∀ v : Half, sx13 (sx13 v) = sx13 v ∧ sx14 (sx14 v) = sx14 v)

/-- R144: a ROP byte sets `rop` and the derived `use_src`, and nothing else. -/
def Obligations.RopWriteDerivesUseSrc : Prop :=
  ∀ (s : State) (b : Byte),
    exec (.wrRop b) s = .next { s with rop := b, useSrc := (b &&& 0x33) ^^^ ((b >>> 2) &&& 0x33) }

/-- R150: a pattern byte goes to its cell and to the rolling buffer at the index, which advances modulo 256. -/
def Obligations.PatternWriteFillsRollingBuffer : Prop :=
  ∀ (s : State) (j : BitVec 7) (b : Byte), ∃ t, exec (.wrPattern j b) s = .next t ∧
    (∀ k, patByte t k = if k = j then b else patByte s k) ∧
    (∀ k, pat32Byte t k = if k = s.pat32Idx then b else pat32Byte s k) ∧
    t.pat32Idx.toNat = (s.pat32Idx.toNat + 1) % 256 ∧
    t = { s with pattern := t.pattern, pattern32 := t.pattern32, pat32Idx := t.pat32Idx }

/-- R148 and R153: a byte written at an undecoded offset changes nothing, and one read there is `UNDECODED_READ`, whose
reference value is 0xFF. -/
def Obligations.UndecodedOffsetsAreInert : Prop :=
  (∀ (s : State) (o b : Byte), undecodedOffset o = true →
    exec (.wrUndecoded o b) s = .next s ∧ Reads (.rdUndecoded o) s (s.cfg.undecodedRead.setWidth 32) ∧
    regWriteByte o b s = s) ∧
  Config.reference.undecodedRead = 0xFF

/-- R160: a byte written at a decoded offset other than the command register reads back, but for the sign bits that the
high byte of a sign-extended register brings with it. -/
def Obligations.RegisterRoundTrip : Prop :=
  ∀ (s : State) (o b : Byte), undecodedOffset o = false → o ≠ 0x24 →
    ∃ i t, decode (encodeWrite (o.setWidth 16) b) = .ok i ∧ exec i s = .next t ∧
      Reads (.rdWindow o) t
        ((if (o = 0x3D ∨ o = 0x3F) ∧ b.getLsbD 4 = true then b ||| 0xE0
          else if o = 0x41 ∧ b.getLsbD 5 = true then b ||| 0xC0 else b).setWidth 32)

/-- R140: for every offset and byte the row the record decodes to is `reg_write_byte` at that offset. -/
def Obligations.WindowRowsAreRegisterByteWrites : Prop :=
  ∀ (s : State) (o b : Byte), ∃ i, decode (encodeWrite (o.setWidth 16) b) = .ok i ∧
    exec i s = .next (regWriteByte o b s)

/-- R143 with the code table R104: a byte written to the command register is the command row of its code. -/
def Obligations.CommandWriteRunsItsRow : Prop :=
  ∀ (s : State) (b : Byte), ∃ i t, decode (encodeCommand b) = .ok i ∧
    i = (if b = 1 then .bitblt else if b = 3 then .scanline else if b = 4 then .bresenham
      else if b = 5 then .shortvec else if b = 6 then .fastline else .nopCmd b) ∧
    exec i s = .next t ∧ exec (.wrCommand b) s = .next t

/-- R142: the long write at the command word writes `rop` from bits 31:24 first and then the command of bits 7:0. -/
def Obligations.CommandRopWriteIsRopThenCommand : Prop :=
  ∀ (s : State) (v : Word), ∃ t u, exec (.wrRop (v.extractLsb' 24 8)) s = .next t ∧
    exec (.wrCommand (v.extractLsb' 0 8)) t = .next u ∧ exec (.wrCommandRop v) s = .next u

/-- R149: what each offset of the window reads as; the read changes nothing of the block. -/
def Obligations.WindowReadsReturnRegisters : Prop :=
  ∀ s : State,
    Reads (.rdWindow 0x24) s ((Config.freeByte s.draws 0).setWidth 32) ∧
    Reads (.rdWindow 0x27) s (s.rop.setWidth 32) ∧
    (∀ l : BitVec 2,
      Reads (.rdWindow (0x28 ||| l.setWidth 8)) s ((getByte32 s.flags l).setWidth 32) ∧
      Reads (.rdWindow (0x2C ||| l.setWidth 8)) s ((getByte32 s.fgCol l).setWidth 32) ∧
      Reads (.rdWindow (0x30 ||| l.setWidth 8)) s ((getByte32 s.bgCol l).setWidth 32) ∧
      Reads (.rdWindow (0x44 ||| l.setWidth 8)) s ((getByte32 s.style l).setWidth 32) ∧
      Reads (.rdWindow (0x68 ||| l.setWidth 8)) s ((getByte32 s.ckey l).setWidth 32) ∧
      Reads (.rdWindow (0x78 ||| l.setWidth 8)) s ((getByte32 s.fgCol l).setWidth 32) ∧
      Reads (.rdWindow (0x7C ||| l.setWidth 8)) s ((getByte32 s.bgCol l).setWidth 32)) ∧
    (∀ l : BitVec 1,
      Reads (.rdWindow (0x38 ||| l.setWidth 8)) s ((getByte16 s.dstX l).setWidth 32) ∧
      Reads (.rdWindow (0x3A ||| l.setWidth 8)) s ((getByte16 s.dstY l).setWidth 32) ∧
      Reads (.rdWindow (0x3C ||| l.setWidth 8)) s ((getByte16 s.srcX l).setWidth 32) ∧
      Reads (.rdWindow (0x3E ||| l.setWidth 8)) s ((getByte16 s.srcY l).setWidth 32) ∧
      Reads (.rdWindow (0x40 ||| l.setWidth 8)) s ((getByte16 s.sizeX l).setWidth 32) ∧
      Reads (.rdWindow (0x42 ||| l.setWidth 8)) s ((getByte16 s.sizeY l).setWidth 32) ∧
      Reads (.rdWindow (0x48 ||| l.setWidth 8)) s ((getByte16 s.clipLeft l).setWidth 32) ∧
      Reads (.rdWindow (0x4A ||| l.setWidth 8)) s ((getByte16 s.clipTop l).setWidth 32) ∧
      Reads (.rdWindow (0x4C ||| l.setWidth 8)) s ((getByte16 s.clipRight l).setWidth 32) ∧
      Reads (.rdWindow (0x4E ||| l.setWidth 8)) s ((getByte16 s.clipBottom l).setWidth 32)) ∧
    (∀ j : BitVec 7, Reads (.rdWindow (0x80 ||| j.setWidth 8)) s ((patByte s j).setWidth 32)) ∧
    (∀ o : Byte, undecodedOffset o = true → Reads (.rdWindow o) s (s.cfg.undecodedRead.setWidth 32))

/-! ## Ports -/

/-- R155 and R157: the index ports store and return the index, the data ports store and return the indexed byte, and a
CRTC store emits `recalc_timings()` exactly for an index in `TIMING_INDICES`. -/
def Obligations.IndexedPortsStoreAndRead : Prop :=
  ∀ (s : State) (v : Byte),
    exec (.portSeqIdx (.write v)) s = .next { s with seqIdx := v } ∧
    exec (.portGdcIdx (.write v)) s = .next { s with gdcIdx := v } ∧
    exec (.portCrtcIdx (.write v)) s = .next { s with crtcIdx := v } ∧
    Reads (.portSeqIdx .read) s (s.seqIdx.setWidth 32) ∧ Reads (.portGdcIdx .read) s (s.gdcIdx.setWidth 32) ∧
    Reads (.portCrtcIdx .read) s (s.crtcIdx.setWidth 32) ∧
    Reads (.portSeqData .read) s ((bankByte s .seq s.seqIdx).setWidth 32) ∧
    Reads (.portGdcData .read) s ((bankByte s .gdc s.gdcIdx).setWidth 32) ∧
    Reads (.portCrtcData .read) s ((bankByte s .crtc s.crtcIdx).setWidth 32) ∧
    (∃ t, exec (.portSeqData (.write v)) s = .next t ∧ t = { s with seq := t.seq } ∧
      ∀ i, bankByte t .seq i = if i = s.seqIdx then v else bankByte s .seq i) ∧
    (∃ t, exec (.portGdcData (.write v)) s = .next t ∧ t = { s with gdc := t.gdc } ∧
      ∀ i, bankByte t .gdc i = if i = s.gdcIdx then v else bankByte s .gdc i) ∧
    (∃ t, exec (.portCrtcData (.write v)) s = .next t ∧ t = { s with crtc := t.crtc, recalcs := t.recalcs } ∧
      (∀ i, bankByte t .crtc i = if i = s.crtcIdx then v else bankByte s .crtc i) ∧
      t.recalcs = (match s.cfg.timingIndices with
        | .all => s.recalcs + 1
        | .only is => if s.crtcIdx ∈ is then s.recalcs + 1 else s.recalcs))

/-- R156 with R33: a bank port stores its register, which fixes the byte offset of its bank; a second write of the same
value changes nothing; a read returns a free value. -/
def Obligations.BankPortsSetBankOffsets : Prop :=
  ∀ (s : State) (v : Byte),
    (∃ t, exec (.portWbank (.write v)) s = .next t ∧ t = { s with wbankReg := v } ∧
      writeBank t = BitVec.ofNat 32 (v.toNat % 64) * s.cfg.bankGranule ∧ readBank t = readBank s ∧
      exec (.portWbank (.write v)) t = .next t) ∧
    (∃ t, exec (.portRbank (.write v)) s = .next t ∧ t = { s with rbankReg := v } ∧
      readBank t = BitVec.ofNat 32 (v.toNat % 64) * s.cfg.bankGranule ∧ writeBank t = writeBank s ∧
      exec (.portRbank (.write v)) t = .next t) ∧
    Reads (.portWbank .read) s ((Config.freeByte s.draws 0).setWidth 32) ∧
    Reads (.portRbank .read) s ((Config.freeByte s.draws 0).setWidth 32)

/-- R154 for a byte write: a port of the accelerator file is the window row of its offset, a port of R109 is its row, a
bank port is its register where the configuration binds it, and any other port is left alone. That an index or data port
wins over a bank port bound to it, and the write bank over the read bank where both are bound to one port, are the
model's (notes/assumptions/10.md). -/
def Obligations.IoByteWritesAreDecoded : Prop :=
  ∀ (s : State) (p : Half) (b : Byte),
    (0x2120 ≤ p.toNat ∧ p.toNat ≤ 0x21FF →
      ∃ i t, decode (encodeWrite (((p - 0x2100).setWidth 8).setWidth 16) b) = .ok i ∧ exec i s = .next t ∧
        exec (.ioWrite p .b1 (b.setWidth 32)) s = .next t) ∧
    (∃ t, exec (.portSeqIdx (.write b)) s = .next t ∧ exec (.ioWrite 0x3C4 .b1 (b.setWidth 32)) s = .next t) ∧
    (∃ t, exec (.portSeqData (.write b)) s = .next t ∧ exec (.ioWrite 0x3C5 .b1 (b.setWidth 32)) s = .next t) ∧
    (∃ t, exec (.portGdcIdx (.write b)) s = .next t ∧ exec (.ioWrite 0x3CE .b1 (b.setWidth 32)) s = .next t) ∧
    (∃ t, exec (.portGdcData (.write b)) s = .next t ∧ exec (.ioWrite 0x3CF .b1 (b.setWidth 32)) s = .next t) ∧
    (∃ t, exec (.portCrtcIdx (.write b)) s = .next t ∧ exec (.ioWrite 0x3D4 .b1 (b.setWidth 32)) s = .next t) ∧
    (∃ t, exec (.portCrtcData (.write b)) s = .next t ∧ exec (.ioWrite 0x3D5 .b1 (b.setWidth 32)) s = .next t) ∧
    (p.toNat < 0x2120 ∨ 0x21FF < p.toNat → p ∉ [0x3C4, 0x3C5, 0x3CE, 0x3CF, 0x3D4, 0x3D5] →
      exec (.ioWrite p .b1 (b.setWidth 32)) s =
        .next (if p = s.cfg.binding.wbankPort then { s with wbankReg := b }
          else if p = s.cfg.binding.rbankPort then { s with rbankReg := b } else s))

/-- R154 for wide writes: each byte at its own port in address order, but for the long write at 0x2124, which is the
atomic command word. -/
def Obligations.IoWideWritesDecompose : Prop :=
  ∀ (s : State) (p : Half) (v : Word),
    (∃ t u, exec (.ioWrite p .b1 (v &&& 0xFF)) s = .next t ∧
      exec (.ioWrite (p + 1) .b1 ((v >>> 8) &&& 0xFF)) t = .next u ∧ exec (.ioWrite p .b2 v) s = .next u) ∧
    (p ≠ 0x2124 →
      ∃ t u w x, exec (.ioWrite p .b1 (v &&& 0xFF)) s = .next t ∧
        exec (.ioWrite (p + 1) .b1 ((v >>> 8) &&& 0xFF)) t = .next u ∧
        exec (.ioWrite (p + 2) .b1 ((v >>> 16) &&& 0xFF)) u = .next w ∧
        exec (.ioWrite (p + 3) .b1 ((v >>> 24) &&& 0xFF)) w = .next x ∧ exec (.ioWrite p .b4 v) s = .next x) ∧
    (∃ t, exec (.wrCommandRop v) s = .next t ∧ exec (.ioWrite 0x2124 .b4 v) s = .next t)

/-- R154 for reads: byte `k` comes from port `p + k`, assembled little-endian; a port of the accelerator file reads as
its window offset, a port of R109 as its row (R155), a bank port as its register's row where the configuration binds it
(R156), and an unclaimed port as a free value (notes/assumptions/5.md). -/
def Obligations.IoReadsAssemblePorts : Prop :=
  ∀ (s : State) (p : Half),
    (∀ n : Width, ∃ v, Reads (.ioRead p n) s v ∧ v.toNat < 2 ^ (8 * n.bytes) ∧
      ∀ k, k < n.bytes → byteAt v k = ioReadByte (p + BitVec.ofNat 16 k) k s) ∧
    (0x2120 ≤ p.toNat ∧ p.toNat ≤ 0x21FF →
      ∃ v, Reads (.rdWindow ((p - 0x2100).setWidth 8)) s v ∧ Reads (.ioRead p .b1) s v) ∧
    (∃ v, Reads (.portSeqIdx .read) s v ∧ Reads (.ioRead 0x3C4 .b1) s v) ∧
    (∃ v, Reads (.portSeqData .read) s v ∧ Reads (.ioRead 0x3C5 .b1) s v) ∧
    (∃ v, Reads (.portGdcIdx .read) s v ∧ Reads (.ioRead 0x3CE .b1) s v) ∧
    (∃ v, Reads (.portGdcData .read) s v ∧ Reads (.ioRead 0x3CF .b1) s v) ∧
    (∃ v, Reads (.portCrtcIdx .read) s v ∧ Reads (.ioRead 0x3D4 .b1) s v) ∧
    (∃ v, Reads (.portCrtcData .read) s v ∧ Reads (.ioRead 0x3D5 .b1) s v) ∧
    (p.toNat < 0x2120 ∨ 0x21FF < p.toNat → p ∉ [0x3C4, 0x3C5, 0x3CE, 0x3CF, 0x3D4, 0x3D5] →
      (p = s.cfg.binding.wbankPort → ∃ v, Reads (.portWbank .read) s v ∧ Reads (.ioRead p .b1) s v) ∧
      (p = s.cfg.binding.rbankPort → ∃ v, Reads (.portRbank .read) s v ∧ Reads (.ioRead p .b1) s v) ∧
      (p ≠ s.cfg.binding.wbankPort → p ≠ s.cfg.binding.rbankPort →
        Reads (.ioRead p .b1) s ((Config.freeByte s.draws 0).setWidth 32)))

/-! ## The address router -/

/-- R171 and R173 on a PCI instance: the events set the memory-space enable and the two bases, any other BAR has no
effect; clearing the enable closes every aperture and changes nothing else, and setting it again restores the state. -/
def Obligations.PciEventsSetDecodeFields : Prop :=
  ∀ (s : State), s.cfg.isPci = true →
    (∀ base, exec (.pciSetBar 0 base) s = .next { s with linearBase := base }) ∧
    (∀ base, exec (.pciSetBar 1 base) s = .next { s with mmioBase := base }) ∧
    (∀ k base, k ≠ 0 → k ≠ 1 → exec (.pciSetBar k base) s = .next s) ∧
    (∀ b, exec (.pciSetMemEnable b) s = .next { s with pciMemEn := b }) ∧
    (∃ t u, exec (.pciSetMemEnable false) s = .next t ∧ t = { s with pciMemEn := false } ∧ mapOf t = [] ∧
      (∀ a, route t a = .unclaimed) ∧ exec (.pciSetMemEnable true) t = .next u ∧ u = { s with pciMemEn := true })

/-- R172: which apertures are active, with their ranges; the banked windows are those of R174. The mapping-control fields
are the bits of the register banks at their `BINDING` locations, `gen0_submode` is `normal` off Gen0, unbound, or where
its bits are zero (R34), and the reference locations and ports are those of R110. The form of `BINDING`, and what a bound
`gen0_submode` gives for nonzero bits, are the model's (notes/assumptions/10.md). -/
def Obligations.ActiveApertures : Prop :=
  (∀ s : State,
    linEn s = (bankByte s s.cfg.binding.linEn.bank s.cfg.binding.linEn.index).getLsbD s.cfg.binding.linEn.lo ∧
    mmioEn s = (bankByte s s.cfg.binding.mmioEn.bank s.cfg.binding.mmioEn.index).getLsbD s.cfg.binding.mmioEn.lo ∧
    (∀ k, k < 2 → (mapSel s).getLsbD k =
      (bankByte s s.cfg.binding.mapSel.bank s.cfg.binding.mapSel.index).getLsbD (s.cfg.binding.mapSel.lo + k)) ∧
    (∀ k, k < 2 → (accelSel s).getLsbD k =
      (bankByte s s.cfg.binding.accelSel.bank s.cfg.binding.accelSel.index).getLsbD (s.cfg.binding.accelSel.lo + k)) ∧
    (s.cfg.gen ≠ .gen0 ∨ s.cfg.binding.subMode = none → subMode s = .normal) ∧
    (∀ l, s.cfg.gen = .gen0 → s.cfg.binding.subMode = some l →
      subMode s =
        match (bankByte s l.loc.bank l.loc.index).getLsbD (l.loc.lo + 1),
          (bankByte s l.loc.bank l.loc.index).getLsbD l.loc.lo with
        | false, false => .normal
        | false, true => l.one
        | true, false => l.two
        | true, true => l.three)) ∧
  (∀ (g : Gen) (b : Bool),
    (Config.referenceFor g b).binding =
      { linEn := ⟨.crtc, 0x21, 5⟩, mapSel := ⟨.gdc, 0x06, 2⟩, accelSel := ⟨.crtc, 0x36, 0⟩, mmioEn := ⟨.crtc, 0x39, 0⟩
        subMode := none, wbankPort := 0x3D8, rbankPort := 0x3D9 }) ∧
  ∀ (s : State) (p : Aperture),
    p ∈ mapOf s ↔ (s.cfg.isPci = false ∨ s.pciMemEn = true) ∧
      ((linEn s = false ∧
          p = (if mapSel s = 0 then ⟨.banked, 0xA0000, 0x20000⟩ else if mapSel s = 1 then ⟨.banked, 0xA0000, 0x10000⟩
            else if mapSel s = 2 then ⟨.banked, 0xB0000, 0x8000⟩ else ⟨.banked, 0xB8000, 0x8000⟩)) ∨
        ((linEn s = true ∨ (s.cfg.isPci = true ∧ s.linearBase ≠ 0)) ∧
          p = ⟨.linear, if s.cfg.isPci then s.linearBase else s.cfg.vlbLinearBase, s.cfg.vramSize.bytes⟩) ∨
        (accelSel s ≠ 0 ∧ (linEn s = true ∨ s.cfg.accelInBanked = true) ∧
          p = ⟨.accel, if accelSel s = 1 then s.cfg.accelFixedBase1 else if accelSel s = 2 then s.cfg.accelFixedBase2
            else s.cfg.geBase, s.cfg.accelApertureSize.toNat⟩) ∨
        (s.cfg.hasMmio = true ∧ mmioEn s = true ∧ p = ⟨.mmio, s.mmioBase, 0x10000⟩))

/-- R178: an address goes to the accelerator aperture, else to MMIO, else to the linear aperture, else to the banked
window, with its offset; to none when no active aperture holds it. -/
def Obligations.RoutePrecedence : Prop :=
  ∀ (s : State) (a : Word),
    (∀ p ∈ mapOf s, p.holds a = true →
      (p.kind = .accel → route s a = .accel ((a - p.base).setWidth 8)) ∧
      (p.kind = .mmio → (∀ q ∈ mapOf s, q.kind = .accel → q.holds a = false) →
        route s a = .mmio ((a - p.base).setWidth 16)) ∧
      (p.kind = .linear → (∀ q ∈ mapOf s, q.kind = .accel ∨ q.kind = .mmio → q.holds a = false) →
        route s a = .linear (a - p.base)) ∧
      (p.kind = .banked → (∀ q ∈ mapOf s, q.kind ≠ .banked → q.holds a = false) →
        route s a = .banked (a - p.base))) ∧
    ((∀ p ∈ mapOf s, p.holds a = false) → route s a = .unclaimed)

/-- R190: the aperture set and every route depend only on the mapping-control fields, the bus fields and the
configuration (R170); writing a data or bank port twice with one value gives the aperture set and bank offsets of writing
it once; toggling the memory-space enable off and on restores the aperture set. -/
def Obligations.DecodeIsIdempotent : Prop :=
  (∀ s t : State, s.cfg = t.cfg → linEn s = linEn t → mapSel s = mapSel t → accelSel s = accelSel t →
    mmioEn s = mmioEn t → s.pciMemEn = t.pciMemEn → s.linearBase = t.linearBase → s.mmioBase = t.mmioBase →
    mapOf s = mapOf t ∧ ∀ a, route s a = route t a) ∧
  (∀ (s : State) (v : Byte) (i : Instr),
    i ∈ [.portCrtcData (.write v), .portSeqData (.write v), .portGdcData (.write v), .portWbank (.write v),
      .portRbank (.write v)] →
    ∃ t u, exec i s = .next t ∧ exec i t = .next u ∧ mapOf u = mapOf t ∧ writeBank u = writeBank t ∧
      readBank u = readBank t) ∧
  (∀ s : State, s.cfg.isPci = true → s.pciMemEn = true →
    ∃ t u, exec (.pciSetMemEnable false) s = .next t ∧ exec (.pciSetMemEnable true) t = .next u ∧ mapOf u = mapOf s)

/-! ## Host memory -/

/-- R184 with R185: a host byte that reaches a framebuffer aperture and is no CPU data lands at its VRAM byte, through
the write bank in the banked window, sets its page's dirty bit, and every other byte and register is unchanged. -/
def Obligations.FramebufferByteWrites : Prop :=
  ∀ (s : State) (a : Word) (b : Byte) (i : Nat),
    Memory.wf s.vram → subMode s = .normal → NotFed s a →
    ((∃ w, route s a = .banked w ∧ i = ((writeBank s + w) &&& vramMask s.cfg).toNat) ∨
      (∃ l, route s a = .linear l ∧ i = (l &&& vramMask s.cfg).toNat)) →
    ∃ t, exec (.memWrite a .b1 (b.setWidth 32)) s = .next t ∧ t = { s with vram := t.vram, dirty := t.dirty } ∧
      (∀ x, t.vram.read x = if x = i then b else s.vram.read x) ∧
      (∀ p, p ∈ t.dirty ↔ p = i / 4096 ∨ p ∈ s.dirty)

/-- R183 and R186: a byte written through the accelerator aperture, or at MMIO offsets 0x2100 to 0x21FF, is the window row
of its offset; one written at any other MMIO offset has the effect of the I/O port of the same number. -/
def Obligations.RegisterApertureWrites : Prop :=
  ∀ (s : State) (a : Word) (b : Byte),
    (∀ o, route s a = .accel o →
      ∃ i t, decode (encodeWrite (o.setWidth 16) b) = .ok i ∧ exec i s = .next t ∧
        exec (.memWrite a .b1 (b.setWidth 32)) s = .next t) ∧
    (∀ m, route s a = .mmio m → 0x2100 ≤ m.toNat ∧ m.toNat ≤ 0x21FF →
      ∃ i t, decode (encodeWrite (((m - 0x2100).setWidth 8).setWidth 16) b) = .ok i ∧ exec i s = .next t ∧
        exec (.memWrite a .b1 (b.setWidth 32)) s = .next t) ∧
    (∀ m, route s a = .mmio m → m.toNat < 0x2100 ∨ 0x21FF < m.toNat →
      ∃ t, exec (.ioWrite m .b1 (b.setWidth 32)) s = .next t ∧ exec (.memWrite a .b1 (b.setWidth 32)) s = .next t)

/-- At an address no active aperture contains a write does nothing (R189), and a read, for which the block supplies no
value, returns the `draw()` of R187: a free value at the number of the read, the model's choice of
notes/assumptions/5.md. -/
def Obligations.UnclaimedAddresses : Prop :=
  ∀ (s : State) (a v : Word), route s a = .unclaimed →
    exec (.memWrite a .b1 v) s = .next s ∧ Reads (.memRead a .b1) s ((Config.freeByte s.draws 0).setWidth 32)

/-- R181: a long write whose first byte reaches the command word is the atomic command word, busy or not. R180 and R183:
any other wide write whose first byte reaches no feed aperture while `busy` writes its bytes in address order, each in the
state the one before it left, as its byte writes do where none of them is CPU data; only the first byte's route decides,
so the second byte of a word write that reaches a framebuffer aperture is stored there, busy or not. -/
def Obligations.WideMemoryWrites : Prop :=
  ∀ (s : State) (a v : Word),
    (route s a = .accel 0x24 ∨ route s a = .mmio 0x2124 →
      ∃ t, exec (.wrCommandRop v) s = .next t ∧ exec (.memWrite a .b4 v) s = .next t) ∧
    (∀ t u, NotFed s a → NotFed t (a + 1) → exec (.memWrite a .b1 (v &&& 0xFF)) s = .next t →
      exec (.memWrite (a + 1) .b1 ((v >>> 8) &&& 0xFF)) t = .next u → exec (.memWrite a .b2 v) s = .next u) ∧
    (∀ t i, NotFed s a → Memory.wf t.vram → subMode t = .normal → exec (.memWrite a .b1 (v &&& 0xFF)) s = .next t →
      ((∃ w, route t (a + 1) = .banked w ∧ i = ((writeBank t + w) &&& vramMask t.cfg).toNat) ∨
        (∃ l, route t (a + 1) = .linear l ∧ i = (l &&& vramMask t.cfg).toNat)) →
      ∃ u, exec (.memWrite a .b2 v) s = .next u ∧ u = { t with vram := u.vram, dirty := u.dirty } ∧
        (∀ x, u.vram.read x = if x = i then byteAt v 1 else t.vram.read x) ∧
        (∀ p, p ∈ u.dirty ↔ p = i / 4096 ∨ p ∈ t.dirty)) ∧
    (∀ t u w x, route s a ≠ .accel 0x24 → route s a ≠ .mmio 0x2124 →
      NotFed s a → NotFed t (a + 1) → NotFed u (a + 2) → NotFed w (a + 3) →
      exec (.memWrite a .b1 (v &&& 0xFF)) s = .next t →
      exec (.memWrite (a + 1) .b1 ((v >>> 8) &&& 0xFF)) t = .next u →
      exec (.memWrite (a + 2) .b1 ((v >>> 16) &&& 0xFF)) u = .next w →
      exec (.memWrite (a + 3) .b1 ((v >>> 24) &&& 0xFF)) w = .next x → exec (.memWrite a .b4 v) s = .next x)

/-- R187: outside the Gen0 latch sub-mode a memory read of any width completes, busy or not, changes nothing of the
block, and byte `k` is what the aperture of address `a + k` supplies; the banked window reads through the read bank. -/
def Obligations.MemoryReadsAssembleBytes : Prop :=
  ∀ (s : State) (a : Word) (n : Width), subMode s ≠ .latch →
    ∃ v, Reads (.memRead a n) s v ∧ v.toNat < 2 ^ (8 * n.bytes) ∧
      ∀ k, k < n.bytes →
        byteAt v k =
          match route s (a + BitVec.ofNat 32 k) with
          | .banked w => s.vram.read ((readBank s + w) &&& vramMask s.cfg).toNat
          | .linear l => s.vram.read (l &&& vramMask s.cfg).toNat
          | .accel o => regReadByte o k s
          | .mmio m =>
            if 0x2100 ≤ m.toNat ∧ m.toNat ≤ 0x21FF then regReadByte ((m - 0x2100).setWidth 8) k s
            else match vgaPort s.cfg m with
              | some p => vgaReadByte p k s
              | none => s.cfg.undecodedRead
          | .unclaimed => Config.freeByte s.draws k

/-- R188 and R273: a framebuffer access in a Gen0 sub-mode whose function the configuration does not supply is refused
by name; reads in the mono sub-mode are not swapped; a supplied function decides the bytes stored, the byte read and the
new latch, at the VRAM byte the write bank gives for a write of the banked window, the read bank for a read of it, and the
linear offset for the linear aperture (the functions' type is the model's, notes/assumptions/9.md). -/
def Obligations.Gen0SubModesUseTheirFunctions : Prop :=
  (∀ (s : State) (a v : Word), ((∃ w, route s a = .banked w) ∨ ∃ l, route s a = .linear l) →
    (NotFed s a →
      (subMode s = .mono → s.cfg.gen0MonoWriteGiven = false → exec (.memWrite a .b1 v) s = .refused .gen0SubMode) ∧
      (subMode s = .latch → s.cfg.gen0LatchWriteGiven = false → exec (.memWrite a .b1 v) s = .refused .gen0SubMode)) ∧
    (subMode s = .latch → s.cfg.gen0LatchReadGiven = false → exec (.memRead a .b1) s = .refused .gen0SubMode) ∧
    (subMode s = .mono → ∃ w, Reads (.memRead a .b1) s w)) ∧
  (∀ (s : State) (a : Word) (b : Byte) (i j : Nat),
    ((∃ w, route s a = .banked w ∧ i = ((writeBank s + w) &&& vramMask s.cfg).toNat ∧
        j = ((readBank s + w) &&& vramMask s.cfg).toNat) ∨
      (∃ l, route s a = .linear l ∧ i = (l &&& vramMask s.cfg).toNat ∧ j = i)) →
    (NotFed s a → subMode s = .mono → s.cfg.gen0MonoWriteGiven = true →
      exec (.memWrite a .b1 (b.setWidth 32)) s = .next (vramWriteCells s (Config.gen0MonoWrite s i b))) ∧
    (NotFed s a → subMode s = .latch → s.cfg.gen0LatchWriteGiven = true →
      exec (.memWrite a .b1 (b.setWidth 32)) s = .next (vramWriteCells s (Config.gen0LatchWrite s i b))) ∧
    (subMode s = .latch → s.cfg.gen0LatchReadGiven = true →
      exec (.memRead a .b1) s =
        .next { s with
          latch := (Config.gen0LatchRead s j).2
          readData := (Config.gen0LatchRead s j).1.setWidth 32
          draws := s.draws + 1 }))

/-- R236: while `busy` a write of any width to a feed aperture is CPU data, whatever its address: the datum's bytes, least
significant first, are fed; the row `FEED` and the transaction `MemWrite` agree, and no register changes. The feed
apertures are the framebuffer apertures that the configuration's two flags name (R9; the flags are
notes/assumptions/18.md). -/
def Obligations.FeedIsCpuData : Prop :=
  (∀ (cfg : Config) (r : Route), isFeedRoute cfg r = true ↔
    (∃ w, r = .banked w ∧ cfg.feedBanked = true) ∨ ∃ l, r = .linear l ∧ cfg.feedLinear = true) ∧
  ∀ (s : State) (a : Word) (n : Width) (v : Word), busy s = true → isFeedRoute s.cfg (route s a) = true →
    exec (.feed a n v) s = .next (feed ((List.range n.bytes).map (byteAt v)) s) ∧
    exec (.memWrite a n v) s = .next (feed ((List.range n.bytes).map (byteAt v)) s) ∧
    SameButEngine s (feed ((List.range n.bytes).map (byteAt v)) s)

/-- R219, R220 and R221: from the start of a CPU-source BitBLT the data draw the pixels of the rectangle in order, a mono
byte giving eight sources, most significant bit first, and `E` native bytes giving one, little-endian; what does not yet
form a pixel is kept, the data after the last pixel are lost, and a byte in no element of the rectangle reads as
before. -/
def Obligations.FeedDrawsPixelsInOrder : Prop :=
  ∀ (s : State) (c : Cont) (bs : List Byte) (srcs : List Word),
    s.eng = .awaitSrc c → contAt c 0 0 = c → c.residual = [] →
    srcs = (if c.flags.getLsbD 6 then
        bs.flatMap (fun b => [7, 6, 5, 4, 3, 2, 1, 0].map (fun i => if b.getLsbD i then c.fg else c.bg))
      else (List.range (bs.length / s.accelBpp.bytes)).map
        (fun k => wordOfBytes ((bs.drop (k * s.accelBpp.bytes)).take s.accelBpp.bytes))) →
    feed bs s =
      { (List.range (min (pixelCount c) srcs.length)).foldl
          (fun t k => drawPixel (srcs.getD k 0) (pixelAt c k) t) s with
        eng :=
          if srcs.length < pixelCount c then
            .awaitSrc { pixelAt c srcs.length with
              residual := if c.flags.getLsbD 6 then [] else bs.drop (bs.length / s.accelBpp.bytes * s.accelBpp.bytes) }
          else .idle } ∧
    ∀ a, Memory.wf s.vram → (∀ k, k < pixelCount c → ¬ InElem s (pixelAt c k).dstOff a) →
      (feed bs s).vram.read a = s.vram.read a

/-- R298, R43 and R45: a feed leaves the snapshot and the decoded pattern of an awaiting command as they are. R220 and
R221: the data are one continuous stream, taken byte by byte in order, so while the engine stays busy two feeds in a row
are one feed of the joined data. -/
def Obligations.FeedKeepsSnapshot : Prop :=
  (∀ (s : State) (c : Cont) (bs : List Byte), s.eng = .awaitSrc c →
    (feed bs s).eng = .idle ∨ ∃ d, (feed bs s).eng = .awaitSrc d ∧
      d = { c with
        x := d.x, y := d.y, srcOff := d.srcOff, dstOff := d.dstOff, rowSrc := d.rowSrc, rowDst := d.rowDst, dx := d.dx,
        dy := d.dy, residual := d.residual }) ∧
  (∀ (s : State) (bs cs : List Byte), busy (feed bs s) = true → feed (bs ++ cs) s = feed cs (feed bs s))

/-- R222: from its start a CPU-source BitBLT of `P` pixels is complete exactly when it has had `ceil(P / 8)` bytes of
mono data, or `P * E` bytes of native data. -/
def Obligations.CpuDataCompletesBitblt : Prop :=
  ∀ (s : State) (c : Cont) (bs : List Byte), s.eng = .awaitSrc c → c.x = 0 → c.y = 0 → c.residual = [] →
    (c.flags.getLsbD 6 = true →
      ((feed bs s).eng = .idle ↔ (extent c.sizeX + 1) * (extent c.sizeY + 1) ≤ 8 * bs.length)) ∧
    (c.flags.getLsbD 6 = false →
      ((feed bs s).eng = .idle ↔ (extent c.sizeX + 1) * (extent c.sizeY + 1) * s.accelBpp.bytes ≤ bs.length))

/-! ## The engine -/

/-- R230: the code 0x01 runs the form that `flags` and `use_src` select, and the table's rows for the forms are that
command. -/
def Obligations.BitbltSelectsItsForm : Prop :=
  ∀ s : State, ∃ t, exec .bitblt s = .next t ∧ exec .bitbltDisplay s = .next t ∧ exec .bitbltPattern s = .next t ∧
    exec .bitbltCpuNative s = .next t ∧ exec .bitbltCpuMono s = .next t ∧ exec .bitbltZeroStream s = .next t ∧
    t = (let s' : State := { s with command := 0x01, eng := .idle }
      if s.flags.getLsbD 2 then bitbltDisplay (snapshot s) s'
      else if s.flags.getLsbD 1 then bitbltPattern (snapshot s) s'
      else if s.useSrc = 0 then bitbltZeroStream (snapshot s) s'
      else { s' with eng := .awaitSrc (snapshot s) })

/-- R202, R203, R210 and R211: what every command's snapshot holds, the registers and the cursors at the start. R233 and
R234: a CPU-source BitBLT whose ROP reads the source writes no pixel; it awaits data with that snapshot. That each of their two rows awaits whichever value `SRCMONO` has, as the code 0x01 does,
is notes/assumptions/7.md. -/
def Obligations.CpuSourceAwaitsData : Prop :=
  ∀ s : State, ∃ c, c = snapshot s ∧
      (s.flags.getLsbD 2 = false → s.flags.getLsbD 1 = false → s.useSrc ≠ 0 →
        exec .bitbltCpuNative s = .next { s with command := 0x01, eng := .awaitSrc c } ∧
        exec .bitbltCpuMono s = .next { s with command := 0x01, eng := .awaitSrc c }) ∧
      c.x = 0 ∧ c.y = 0 ∧ c.residual = [] ∧ c.rop = s.rop ∧ c.flags = s.flags ∧ c.fg = s.fgCol ∧ c.bg = s.bgCol ∧
      c.sizeX = s.sizeX ∧ c.sizeY = s.sizeY ∧ c.clip = ⟨s.clipLeft, s.clipTop, s.clipRight, s.clipBottom⟩ ∧
      c.pitch = s.rowOffset * (match s.accelBpp with | .bpp8 => 8 | .bpp16 => 4 | .bpp32 => 2) ∧
      c.dx.toInt = s.dstX.toInt ∧ c.dy.toInt = s.dstY.toInt ∧ c.x0 = c.dx ∧
      c.srcOff = BitVec.ofInt 32 (s.srcX.toInt + s.srcY.toInt * c.pitch.toNat) ∧
      c.dstOff = BitVec.ofInt 32 (s.dstX.toInt + s.dstY.toInt * c.pitch.toNat) ∧
      c.rowSrc = c.srcOff ∧ c.rowDst = c.dstOff ∧
      c.xdir = (if s.flags.getLsbD 9 then .neg else .pos) ∧ c.ydir = (if s.flags.getLsbD 8 then .neg else .pos)

/-- R204 to R209 with R212: the pattern operand of destination coordinates is the cell `(dx & 7, dy & 7)` of the form the
flags and the depth select: solid foreground, mono expansion, or the native bytes, little-endian, the 32-bit ones from
the rolling buffer. -/
def Obligations.PatternCells : Prop :=
  ∀ (s : State) (dx dy : Word),
    (s.flags.getLsbD 14 = true → patAt (snapshot s) dx dy = s.fgCol) ∧
    (s.flags.getLsbD 14 = false → s.flags.getLsbD 5 = true →
      patAt (snapshot s) dx dy =
        if (patByte s (BitVec.ofNat 7 (dy.toNat % 8))).getLsbD (7 - dx.toNat % 8) then s.fgCol else s.bgCol) ∧
    (s.flags.getLsbD 14 = false → s.flags.getLsbD 5 = false →
      ∀ k, k < 4 →
        byteAt (patAt (snapshot s) dx dy) k =
          match s.accelBpp with
          | .bpp8 => if k < 1 then patByte s (BitVec.ofNat 7 (dy.toNat % 8 * 8 + dx.toNat % 8)) else 0
          | .bpp16 => if k < 2 then patByte s (BitVec.ofNat 7 (2 * (dy.toNat % 8 * 8 + dx.toNat % 8) + k)) else 0
          | .bpp32 => pat32Byte s (BitVec.ofNat 8 (4 * (dy.toNat % 8 * 8 + dx.toNat % 8) + k)))

/-- R216: a BitBLT that needs no CPU data draws exactly `(max(size_x,0)+1) × (max(size_y,0)+1)` pixels, x-major then
y-major, each source taken just before its pixel, and then is done. -/
def Obligations.BitbltIsRasterWalk : Prop :=
  (∀ v : Half, (extent v : Int) = max v.toInt 0) ∧
  ∀ s : State,
    (s.flags.getLsbD 2 = true →
      exec .bitbltDisplay s =
        .next (drawRectangle (fun t k => readPixel t k.srcOff) (snapshot s) { s with command := 0x01, eng := .idle })) ∧
    (s.flags.getLsbD 2 = false → s.flags.getLsbD 1 = true →
      exec .bitbltPattern s =
        .next (drawRectangle (fun _ k => patAt k k.dx k.dy) (snapshot s) { s with command := 0x01, eng := .idle })) ∧
    (s.flags.getLsbD 2 = false → s.flags.getLsbD 1 = false → s.useSrc = 0 →
      exec .bitbltZeroStream s =
        .next (drawRectangle (fun _ _ => if s.flags.getLsbD 6 then s.bgCol else 0) (snapshot s)
          { s with command := 0x01, eng := .idle }))

/-- R240: a scanline draws `max(size_x, 0) + 1` pixels of one row, each inside the clip the mix of destination, pattern
and source, with no transparency test; the source is the pattern when `SRCDISP` is 0 and `SRCPAT` is 1, and else the
display memory at the source offset, read just before the pixel. -/
def Obligations.ScanlineIsRowWalk : Prop :=
  ∀ s : State,
    exec .scanline s =
      .next ((List.range (extent s.sizeX + 1)).foldl
        (fun t k =>
          let c := contAt (snapshot s) k 0
          if clipOk t.cfg c.clip c.dx c.dy = true then
            writePixel t c.dstOff
              (mix c.rop (readPixel t c.dstOff) (patAt c c.dx c.dy)
                (if s.flags.getLsbD 2 = false ∧ s.flags.getLsbD 1 = true then patAt c c.dx c.dy
                  else readPixel t c.srcOff))
          else t)
        { s with command := 0x03, eng := .idle })

/-- R245: a Bresenham line plots `max(size_y, 0) + 1` points, from `(sint16 dst_x, sint16 dst_y)` with the error term
`sint16 size_x`; each step moves the major axis, and the minor axis exactly when the error term is not negative, which
then takes `K2 = src_x` and else `K1 = src_y`. -/
def Obligations.BresenhamIsIteratedWalk : Prop :=
  ∀ s : State,
    let point : Nat → LineCursor := lineAt
      (fun p =>
        { px := if s.flags.getLsbD 10 = false ∨ 0 ≤ p.err.toInt then
            p.px + (if s.flags.getLsbD 9 then -1 else 1) else p.px
          py := if s.flags.getLsbD 10 = true ∨ 0 ≤ p.err.toInt then
            p.py + (if s.flags.getLsbD 8 then -1 else 1) else p.py
          err := if 0 ≤ p.err.toInt then p.err + s.srcX.signExtend 32 else p.err + s.srcY.signExtend 32
          i := p.i + 1 })
      { px := s.dstX.signExtend 32, py := s.dstY.signExtend 32, err := s.sizeX.signExtend 32, i := 0 }
    exec .bresenham s =
      .next ((List.range (extent s.sizeY + 1)).foldl (fun t k => plot (snapshot s) (point k).px (point k).py t)
        { s with command := 0x04, eng := .idle })

/-- R250 and R255 with R103: a short vector, and a fast line where the generation has it, plots point `k` at the start
plus `k` times the compass step. -/
def Obligations.VectorsFollowCompass : Prop :=
  ∀ (s : State) (sx sy : Word),
    (s.flags.extractLsb' 8 3, sx, sy) ∈
      ([(0, 1, 0), (1, 1, -1), (2, 0, -1), (3, -1, -1), (4, -1, 0), (5, -1, 1), (6, 0, 1), (7, 1, 1)] :
        List (BitVec 3 × Word × Word)) →
    exec .shortvec s =
      .next ((List.range (extent s.sizeY + 1)).foldl
        (fun t k => plot (snapshot s) (sint16 s.dstX + BitVec.ofNat 32 k * sx) (sint16 s.dstY + BitVec.ofNat 32 k * sy) t)
        { s with command := 0x05, eng := .idle }) ∧
    (s.cfg.fastlineMinGen.rank ≤ s.cfg.gen.rank →
      exec .fastline s =
        .next ((List.range (extent s.sizeY + 1)).foldl
          (fun t k => plot (snapshot s) (sint16 s.dstX + BitVec.ofNat 32 k * sx) (sint16 s.dstY + BitVec.ofNat 32 k * sy) t)
          { s with command := 0x06, eng := .idle }))

/-- R260: a code that names no command, and FASTLINE where the generation has none, aborts an awaiting command and does
nothing more. -/
def Obligations.NopCommandsOnlyAbort : Prop :=
  (∀ (s : State) (code : Byte), code ≠ 1 → code ≠ 3 → code ≠ 4 → code ≠ 5 → code ≠ 6 →
    exec (.nopCmd code) s = .next { s with command := code, eng := .idle }) ∧
  (∀ s : State, s.cfg.gen.rank < s.cfg.fastlineMinGen.rank →
    exec .fastline s = .next { s with command := 0x06, eng := .idle })

/-- The frame of every command (44_blit_commands.md header, D43; R44): the command register takes the code, and besides
it at most video memory, the dirty bitmap and the engine state change. -/
def Obligations.CommandsWriteNoRegisterBack : Prop :=
  ∀ s : State,
    (∃ t, exec .bitblt s = .next t ∧ CommandFrame 0x01 s t) ∧
    (∃ t, exec .scanline s = .next t ∧ CommandFrame 0x03 s t ∧ t.eng = .idle) ∧
    (∃ t, exec .bresenham s = .next t ∧ CommandFrame 0x04 s t ∧ t.eng = .idle) ∧
    (∃ t, exec .shortvec s = .next t ∧ CommandFrame 0x05 s t ∧ t.eng = .idle) ∧
    (∃ t, exec .fastline s = .next t ∧ CommandFrame 0x06 s t ∧ t.eng = .idle) ∧
    (∀ b, ∃ t, exec (.wrCommand b) s = .next t ∧ CommandFrame b s t)

/-- The memory frame of BitBLT (R216, R64): a byte in no element of the destination rectangle reads as before. -/
def Obligations.BitbltLeavesOtherBytes : Prop :=
  ∀ (s : State) (a : Nat), Memory.wf s.vram →
    (∀ k, k < pixelCount (snapshot s) → ¬ InElem s (pixelAt (snapshot s) k).dstOff a) →
    ∃ t, exec .bitblt s = .next t ∧ t.vram.read a = s.vram.read a

/-- The memory frame of the scanline and line commands (R240, R224, R64): a byte in no element of their pixels reads as
before. -/
def Obligations.LinesLeaveOtherBytes : Prop :=
  ∀ (s : State) (a : Nat), Memory.wf s.vram →
    ((∀ k, k ≤ extent s.sizeX → ¬ InElem s (contAt (snapshot s) k 0).dstOff a) →
      ∃ t, exec .scanline s = .next t ∧ t.vram.read a = s.vram.read a) ∧
    ((∀ k, k ≤ extent s.sizeY →
        ¬ InElem s
          ((lineAt (bresenhamStep s.flags (sint16 s.srcY) (sint16 s.srcX)) (lineStart (snapshot s)) k).px +
            (lineAt (bresenhamStep s.flags (sint16 s.srcY) (sint16 s.srcX)) (lineStart (snapshot s)) k).py *
              (snapshot s).pitch) a) →
      ∃ t, exec .bresenham s = .next t ∧ t.vram.read a = s.vram.read a) ∧
    ((∀ k, k ≤ extent s.sizeY →
        ¬ InElem s
          ((lineAt (compassStep s.flags) (lineStart (snapshot s)) k).px +
            (lineAt (compassStep s.flags) (lineStart (snapshot s)) k).py * (snapshot s).pitch) a) →
      ∃ t u, exec .shortvec s = .next t ∧ t.vram.read a = s.vram.read a ∧
        exec .fastline s = .next u ∧ u.vram.read a = s.vram.read a)

/-- R213: Gen0 and Gen1 never clip; on Gen2 and Gen3 a pixel passes exactly when its signed coordinates lie within the
inclusive bounds; a pixel that fails is neither drawn by a BitBLT or scanline nor plotted by a line, a scanline pixel
that passes is composed with its pattern and its source (R240), and a line pixel that passes with the foreground as
pattern and source (R224). -/
def Obligations.ClipTestIsInclusive : Prop :=
  (∀ (cfg : Config) (k : Clip) (px py : Word),
    (cfg.gen = .gen0 ∨ cfg.gen = .gen1 → clipOk cfg k px py = true) ∧
    (cfg.gen = .gen2 ∨ cfg.gen = .gen3 →
      (clipOk cfg k px py = true ↔
        k.l.toInt ≤ px.toInt ∧ px.toInt ≤ k.r.toInt ∧ k.t.toInt ≤ py.toInt ∧ py.toInt ≤ k.b.toInt))) ∧
  (∀ (s : State) (c : Cont) (src px py : Word),
    (clipOk s.cfg c.clip c.dx c.dy = false → drawPixel src c s = s ∧ scanlinePixel c s = s) ∧
    (clipOk s.cfg c.clip c.dx c.dy = true →
      scanlinePixel c s =
        writePixel s c.dstOff
          (mix c.rop (readPixel s c.dstOff) (patAt c c.dx c.dy)
            (if c.flags.getLsbD 2 = false ∧ c.flags.getLsbD 1 = true then patAt c c.dx c.dy
              else readPixel s c.srcOff))) ∧
    (clipOk s.cfg c.clip px py = false → plot c px py s = s) ∧
    (clipOk s.cfg c.clip px py = true →
      plot c px py s =
        writePixel s (px + py * c.pitch) (mix c.rop (readPixel s (px + py * c.pitch)) c.fg c.fg)))

/-- R214 and R215: with transparency enabled a source equal to the transparent colour in the element's bits is skipped
entirely; any other pixel inside the clip becomes the truncated mix of destination, pattern and source. -/
def Obligations.TransparentPixelsAreSkipped : Prop :=
  ∀ (s : State) (c : Cont) (src : Word), Memory.wf s.vram →
    (c.flags.getLsbD 12 = true →
      s.accelBpp.trunc src = s.accelBpp.trunc (if c.flags.getLsbD 13 then c.fg else c.bg) → drawPixel src c s = s) ∧
    (clipOk s.cfg c.clip c.dx c.dy = true →
      (c.flags.getLsbD 12 = false ∨
        s.accelBpp.trunc src ≠ s.accelBpp.trunc (if c.flags.getLsbD 13 then c.fg else c.bg)) →
      drawPixel src c s =
          writePixel s c.dstOff (mix c.rop (readPixel s c.dstOff) (patAt c c.dx c.dy) src) ∧
        readPixel (drawPixel src c s) c.dstOff =
          s.accelBpp.trunc (mix c.rop (readPixel s c.dstOff) (patAt c c.dx c.dy) src))

/-- R63, R64, R66 and R67: an element is the index modulo the number of elements, aligned and inside video memory;
writing it stores its low bytes there,
little-endian, leaves every other byte, sets the dirty bit of its page, and reading it back gives the stored bits. -/
def Obligations.PixelWritesAreElements : Prop :=
  ∀ (s : State) (off v : Word), Memory.wf s.vram →
    elemAddr s off = off.toNat % (s.cfg.vramSize.bytes / s.accelBpp.bytes) * s.accelBpp.bytes ∧
    elemAddr s off % s.accelBpp.bytes = 0 ∧ elemAddr s off + s.accelBpp.bytes ≤ s.cfg.vramSize.bytes ∧
    (∀ x, (writePixel s off v).vram.read x =
      if elemAddr s off ≤ x ∧ x < elemAddr s off + s.accelBpp.bytes then byteAt v (x - elemAddr s off)
      else s.vram.read x) ∧
    (∀ p, p ∈ (writePixel s off v).dirty ↔ p = elemAddr s off / 4096 ∨ p ∈ s.dirty) ∧
    readPixel (writePixel s off v) off = s.accelBpp.trunc v

/-! ## Events -/

/-- R31: a mode update sets the row offset and the element size of the depth, and nothing else (the width of `disp_bpp` is
the model's, notes/assumptions/13.md). -/
def Obligations.ModeUpdateSetsElementSize : Prop :=
  ∀ (s : State) (d r : Word), ∃ e, exec (.modeUpdate d r) s = .next { s with rowOffset := r, accelBpp := e } ∧
    (d = 15 ∨ d = 16 → e = .bpp16) ∧ (d = 32 → e = .bpp32) ∧ (d ≠ 15 → d ≠ 16 → d ≠ 32 → e = .bpp8)

/-- R66: the event `clear_dirty` clears the dirty bit of its page, and nothing else. -/
def Obligations.ClearDirtyClearsOnePage : Prop :=
  ∀ (s : State) (page : Word), ∃ t, exec (.clearDirty page) s = .next t ∧ t = { s with dirty := t.dirty } ∧
    ∀ q, q ∈ t.dirty ↔ q ∈ s.dirty ∧ q ≠ page.toNat

/-- R291 and R294: `reset()` gives every field of the block its attach value, the video memory `VRAM_INIT` again; the
configuration stays (R290), and so does the model's own host side (notes/assumptions/17.md). -/
def Obligations.ResetGivesAttachValues : Prop :=
  ∀ s : State, ∃ t, exec .reset s = .next t ∧ t.cfg = s.cfg ∧
    t.command = 0 ∧ t.rop = 0 ∧ t.useSrc = 0 ∧ t.flags = 0 ∧ t.fgCol = 0 ∧ t.bgCol = 0 ∧ t.ckey = 0 ∧ t.style = 0 ∧
    t.dstX = 0 ∧ t.dstY = 0 ∧ t.srcX = 0 ∧ t.srcY = 0 ∧ t.sizeX = 0 ∧ t.sizeY = 0 ∧
    t.clipLeft = 0 ∧ t.clipTop = 0 ∧ t.clipRight = 0 ∧ t.clipBottom = 0 ∧
    (∀ j, patByte t j = 0) ∧ (∀ j, pat32Byte t j = 0) ∧ t.pat32Idx = 0 ∧ t.accelBpp = .bpp8 ∧ t.rowOffset = 0 ∧
    (∀ b i, bankByte t b i = 0) ∧ t.crtcIdx = 0 ∧ t.seqIdx = 0 ∧ t.gdcIdx = 0 ∧
    t.wbankReg = 0 ∧ t.rbankReg = 0 ∧ writeBank t = 0 ∧ readBank t = 0 ∧
    linEn t = false ∧ mapSel t = 0 ∧ accelSel t = 0 ∧ mmioEn t = false ∧ subMode t = .normal ∧
    (s.cfg.isPci = true → t.pciMemEn = false ∧ t.linearBase = 0 ∧ t.mmioBase = 0 ∧ mapOf t = []) ∧
    (s.cfg.isPci = false → t.pciMemEn = true ∧ t.linearBase = s.cfg.vlbLinearBase ∧
      mapOf t = [⟨.banked, 0xA0000, 0x20000⟩]) ∧
    t.latch = Vector.replicate 16 0 ∧ t.eng = .idle ∧ t.dirty = [] ∧ t.vram = s.cfg.vramInit ∧ t.irq = false ∧
    t.recalcs = 0 ∧ t.readData = s.readData ∧ t.draws = s.draws ∧ t.pending = s.pending

/-! ## Invariants -/

/-- The state after reset satisfies the invariant (R291). -/
def Obligations.ResetStateIsWellFormed : Prop := StateWf State.reset

/-- Every step keeps the invariant: canonical video memory inside VRAM, existing dirty pages, `use_src` derived from
`rop`, sign-extended registers extended, fixed bus fields off PCI, the IRQ output low, and an awaiting command that is a
CPU-source BitBLT inside its rectangle (R24, R35, R38, R39, R41, R146, R274). -/
def Obligations.StepKeepsWellFormed : Prop :=
  ∀ s t : State, StateWf s → step s = .next t → StateWf t

/-- R260 and R41: besides a command write, a feed and a reset no instruction changes the engine state; a host memory
write of any width, busy or not, is neither when it is no CPU data and none of its bytes reaches the command register
along the route it has in the state the bytes before it leave (R183). -/
def Obligations.OnlyCommandsFeedsAndResetMoveEngine : Prop :=
  ∀ (s t : State) (i : Instr), exec i s = .next t →
    (match i with
      | .bitblt | .bitbltDisplay | .bitbltPattern | .bitbltCpuNative | .bitbltCpuMono | .bitbltZeroStream => False
      | .scanline | .bresenham | .shortvec | .fastline | .nopCmd _ | .wrCommand _ | .wrCommandRop _ | .reset => False
      | .wrUndecoded o _ => o ≠ 0x24
      | .ioWrite p n _ => ∀ k, k < n.bytes → p + BitVec.ofNat 16 k ≠ 0x2124
      | .feed a n v | .memWrite a n v =>
        NotFed s a ∧ ∀ k u, k < n.bytes → memWriteBytes a ((bytesOf n.bytes v).take k) s = .ok u →
          route u (a + BitVec.ofNat 32 k) ≠ .accel 0x24 ∧ route u (a + BitVec.ofNat 32 k) ≠ .mmio 0x2124
      | _ => True) →
    t.eng = s.eng

/-- R290 and R274: no step changes the configuration, and none drives the IRQ output. -/
def Obligations.StepKeepsConfigurationAndIrq : Prop :=
  ∀ s t : State, step s = .next t → s.irq = false → t.cfg = s.cfg ∧ t.irq = false
end

