-- ==== Sys2Proof/Laws/Bytes.lean ====
section
/-!
SUPPORT. The laws of bytes, lanes and elements: what a byte of a register is after a byte write, that sign extension is
idempotent, what the bytes of an assembled value are, and where an element lies.
-/

namespace Sys2Proof.Machine

/-! ## Lanes of registers -/

/-- Bit `i` of eight ones at place 0. -/
theorem ones_getLsbD (w i : Nat) : (BitVec.ofNat w 0xFF).getLsbD i = (decide (i < w) && decide (i < 8)) := by
  rw [BitVec.getLsbD_ofNat, show (0xFF : Nat) = 2 ^ 8 - 1 from rfl, Nat.testBit_two_pow_sub_one]

/-- After a byte write the written lane of a 32-bit register holds the byte and every other lane what it held (R106). -/
theorem getByte32_setByte32 (v : Word) (l k : BitVec 2) (b : Byte) :
    getByte32 (setByte32 v l b) k = if k = l then b else getByte32 v k := by
  have hl : l.toNat < 4 := l.isLt
  have hk : k.toNat < 4 := k.isLt
  have hne : k ≠ l → k.toNat ≠ l.toNat := fun h e => h (BitVec.eq_of_toNat_eq e)
  apply BitVec.eq_of_getLsbD_eq
  intro i hi
  simp only [getByte32, setByte32, BitVec.getLsbD_setWidth, BitVec.getLsbD_ushiftRight, BitVec.getLsbD_or,
    BitVec.getLsbD_and, BitVec.getLsbD_not, BitVec.getLsbD_shiftLeft, BitVec.ofNat_eq_ofNat, ones_getLsbD, hi]
  by_cases h : k = l
  · subst h
    rw [if_pos rfl, show 8 * k.toNat + i - 8 * k.toNat = i by omega]
    simp [hi, show 8 * k.toNat + i < 32 by omega, show i < 32 by omega]
  · rw [if_neg h]
    have := hne h
    by_cases hlt : 8 * k.toNat + i < 8 * l.toNat
    · simp [hi, hlt, show 8 * k.toNat + i < 32 by omega]
    · simp [hi, hlt, show 8 * k.toNat + i < 32 by omega, show ¬ (8 * k.toNat + i - 8 * l.toNat < 8) by omega,
        BitVec.getLsbD_of_ge b (8 * k.toNat + i - 8 * l.toNat) (by omega)]

/-- After a byte write the written lane of a 16-bit register holds the byte and the other lane what it held (R106). -/
theorem getByte16_setByte16 (v : Half) (l k : BitVec 1) (b : Byte) :
    getByte16 (setByte16 v l b) k = if k = l then b else getByte16 v k := by
  have hl : l.toNat < 2 := l.isLt
  have hk : k.toNat < 2 := k.isLt
  have hne : k ≠ l → k.toNat ≠ l.toNat := fun h e => h (BitVec.eq_of_toNat_eq e)
  apply BitVec.eq_of_getLsbD_eq
  intro i hi
  simp only [getByte16, setByte16, BitVec.getLsbD_setWidth, BitVec.getLsbD_ushiftRight, BitVec.getLsbD_or,
    BitVec.getLsbD_and, BitVec.getLsbD_not, BitVec.getLsbD_shiftLeft, BitVec.ofNat_eq_ofNat, ones_getLsbD, hi]
  by_cases h : k = l
  · subst h
    rw [if_pos rfl, show 8 * k.toNat + i - 8 * k.toNat = i by omega]
    simp [hi, show 8 * k.toNat + i < 16 by omega, show i < 16 by omega]
  · rw [if_neg h]
    have := hne h
    by_cases hlt : 8 * k.toNat + i < 8 * l.toNat
    · simp [hi, hlt, show 8 * k.toNat + i < 16 by omega]
    · simp [hi, hlt, show 8 * k.toNat + i < 16 by omega, show ¬ (8 * k.toNat + i - 8 * l.toNat < 8) by omega,
        BitVec.getLsbD_of_ge b (8 * k.toNat + i - 8 * l.toNat) (by omega)]

/-! ## Sign extension -/

theorem sx13_idem (v : Half) : sx13 (sx13 v) = sx13 v := by
  by_cases h : v.getLsbD 12
  · have h' : (v ||| 0xE000).getLsbD 12 = true := by rw [BitVec.getLsbD_or, h, Bool.true_or]
    rw [show sx13 v = v ||| 0xE000 from if_pos h, sx13, if_pos h', BitVec.or_assoc, BitVec.or_self]
  · rw [show sx13 v = v from if_neg h, sx13, if_neg h]

theorem sx14_idem (v : Half) : sx14 (sx14 v) = sx14 v := by
  by_cases h : v.getLsbD 13
  · have h' : (v ||| 0xC000).getLsbD 13 = true := by rw [BitVec.getLsbD_or, h, Bool.true_or]
    rw [show sx14 v = v ||| 0xC000 from if_pos h, sx14, if_pos h', BitVec.or_assoc, BitVec.or_self]
  · rw [show sx14 v = v from if_neg h, sx14, if_neg h]

/-! ## Bytes of a value -/

theorem byteAt_getLsbD (v : Word) (k i : Nat) :
    (byteAt v k).getLsbD i = (decide (i < 8) && v.getLsbD (8 * k + i)) := by
  rw [byteAt, BitVec.getLsbD_setWidth, BitVec.getLsbD_ushiftRight]

@[simp] theorem bytesOf_length (n : Nat) (v : Word) : (bytesOf n v).length = n := by simp [bytesOf]

/-- Byte `k` of a datum cut into bytes (R13). -/
theorem bytesOf_getD {n k : Nat} (v : Word) (h : k < n) : (bytesOf n v).getD k 0 = byteAt v k := by
  simp [bytesOf, h]

/-- A bit of an assembled value is a bit of one of its bytes (R13, R61). -/
theorem wordOfBytes_getLsbD (bs : List Byte) (i : Nat) (hi : i < 32) :
    (wordOfBytes bs).getLsbD i = (bs.getD (i / 8) 0).getLsbD (i % 8) := by
  induction bs generalizing i with
  | nil => simp [wordOfBytes]
  | cons b bs ih =>
    rw [wordOfBytes, BitVec.getLsbD_or, BitVec.getLsbD_setWidth, BitVec.getLsbD_shiftLeft]
    by_cases h : i < 8
    · simp [hi, h, show i / 8 = 0 by omega, show i % 8 = i by omega]
    · have h8 : b.getLsbD i = false := BitVec.getLsbD_of_ge _ _ (by omega)
      rw [h8, ih (i - 8) (by omega), show (i - 8) / 8 = i / 8 - 1 by omega, show (i - 8) % 8 = i % 8 by omega]
      obtain ⟨q, hq⟩ : ∃ q, i / 8 = q + 1 := ⟨i / 8 - 1, by omega⟩
      simp [hi, h, hq]

/-- Byte `k` of an assembled value is the byte it was assembled from, and 0 past the last one (R13, R61). -/
theorem byteAt_wordOfBytes (bs : List Byte) {k : Nat} (hk : k < 4) : byteAt (wordOfBytes bs) k = bs.getD k 0 := by
  apply BitVec.eq_of_getLsbD_eq
  intro i hi
  rw [byteAt_getLsbD, wordOfBytes_getLsbD _ _ (by omega), show (8 * k + i) / 8 = k by omega,
    show (8 * k + i) % 8 = i by omega]
  simp [hi]

/-- Assembling the bytes of a datum gives the datum's low bytes. -/
theorem wordOfBytes_bytesOf_getLsbD (n : Nat) (v : Word) {i : Nat} (hi : i < 32) :
    (wordOfBytes (bytesOf n v)).getLsbD i = (decide (i < 8 * n) && v.getLsbD i) := by
  rw [wordOfBytes_getLsbD _ _ hi]
  by_cases h : i / 8 < n
  · rw [bytesOf_getD v h, byteAt_getLsbD, show 8 * (i / 8) + i % 8 = i by omega]
    simp [show i % 8 < 8 by omega, show i < 8 * n by omega]
  · rw [List.getD_eq_default _ _ (by simp; omega)]
    simp [show ¬ i < 8 * n by omega]

/-! ## Elements -/

theorem trunc_eq_wordOfBytes (d : AccelBpp) (v : Word) : wordOfBytes (bytesOf d.bytes v) = d.trunc v := by
  apply BitVec.eq_of_getLsbD_eq
  intro i hi
  rw [wordOfBytes_bytesOf_getLsbD _ _ hi]
  cases d
  · show _ = (v &&& BitVec.ofNat 32 0xFF).getLsbD i
    rw [BitVec.getLsbD_and, ones_getLsbD, Bool.and_comm]
    simp [AccelBpp.bytes, AccelBpp.shift, hi]
  · show _ = (v &&& BitVec.ofNat 32 0xFFFF).getLsbD i
    rw [BitVec.getLsbD_and, BitVec.getLsbD_ofNat, show (0xFFFF : Nat) = 2 ^ 16 - 1 from rfl,
      Nat.testBit_two_pow_sub_one, Bool.and_comm]
    simp [AccelBpp.bytes, AccelBpp.shift, hi]
  · simp [AccelBpp.bytes, AccelBpp.shift, AccelBpp.trunc, hi]

/-- The element index and the byte address it stands for, as numbers (R63). -/
theorem elemAddr_eq (s : State) (off : Word) :
    elemAddr s off = off.toNat % (s.cfg.vramSize.bytes / s.accelBpp.bytes) * s.accelBpp.bytes := by
  have ho := off.isLt
  have hand : ∀ n, off.toNat &&& (2 ^ n - 1) = off.toNat % 2 ^ n := fun n => Nat.and_two_pow_sub_one_eq_mod _ _
  unfold elemAddr vramMask
  generalize s.cfg.vramSize = z
  generalize s.accelBpp = d
  have key : ∀ n e : Nat, n + e < 32 →
      ((off &&& BitVec.ofNat 32 (2 ^ n - 1)) <<< e).toNat = off.toNat % 2 ^ n * 2 ^ e := by
    intro n e hn
    have h1 : 2 ^ n ≤ 2 ^ 32 := Nat.pow_le_pow_right (by omega) (by omega)
    have h2 : 2 ^ (n + e) ≤ 2 ^ 32 := Nat.pow_le_pow_right (by omega) (by omega)
    have h3 : off.toNat % 2 ^ n < 2 ^ n := Nat.mod_lt _ (by positivity)
    have h4 : off.toNat % 2 ^ n * 2 ^ e < 2 ^ (n + e) := by
      rw [pow_add]; exact Nat.mul_lt_mul_of_pos_right h3 (by positivity)
    rw [BitVec.toNat_shiftLeft, BitVec.toNat_and, BitVec.toNat_ofNat,
      Nat.mod_eq_of_lt (show 2 ^ n - 1 < 2 ^ 32 by omega), hand, Nat.shiftLeft_eq, Nat.mod_eq_of_lt (by omega)]
  cases z <;> cases d
  · exact key 20 0 (by omega)
  · exact key 19 1 (by omega)
  · exact key 18 2 (by omega)
  · exact key 21 0 (by omega)
  · exact key 20 1 (by omega)
  · exact key 19 2 (by omega)
  · exact key 22 0 (by omega)
  · exact key 21 1 (by omega)
  · exact key 20 2 (by omega)

/-- An element is naturally aligned (R67). -/
theorem elemAddr_aligned (s : State) (off : Word) : elemAddr s off % s.accelBpp.bytes = 0 := by
  rw [elemAddr_eq, Nat.mul_mod_left]

/-- An element lies inside video memory (R67). -/
theorem elemAddr_inside (s : State) (off : Word) : elemAddr s off + s.accelBpp.bytes ≤ s.cfg.vramSize.bytes := by
  rw [elemAddr_eq]
  generalize off.toNat = n
  cases s.cfg.vramSize <;> cases s.accelBpp <;> simp only [VramSize.bytes, AccelBpp.bytes, AccelBpp.shift] <;> omega

end Sys2Proof.Machine
end

