-- ==== Sys2Proof/Laws/Memory.lean ====
section
/-!
SUPPORT. The laws of video memory and of the dirty bitmap: read after write, canonical form, and what a run of bytes
reads as.
-/

namespace Sys2Proof.Machine

@[simp] theorem Memory.read_nil (a : Nat) : Memory.read [] a = 0 := rfl

theorem Memory.read_cons (c : Host.Cell) (m : Memory) (a : Nat) :
    Memory.read (c :: m) a = if c.1 = a then c.2 else Memory.read m a := rfl

/-- Below every listed address a memory reads as an unlisted byte. -/
theorem Memory.read_of_lt {m : Memory} {a : Nat} (h : ∀ p ∈ m, a < p.1) : Memory.read m a = 0 := by
  induction m with
  | nil => rfl
  | cons c m ih =>
    have hc : c.1 ≠ a := by have := h c (by simp); omega
    rw [Memory.read_cons, if_neg hc]
    exact ih fun p hp => h p (by simp [hp])

theorem Memory.wf_nil : Memory.wf [] := by simp [Memory.wf]

theorem Memory.wf_cons {c : Host.Cell} {m : Memory} :
    Memory.wf (c :: m) ↔ (∀ p ∈ m, c.1 < p.1) ∧ c.2 ≠ 0 ∧ Memory.wf m := by
  simp only [Memory.wf, List.pairwise_cons, List.mem_cons, forall_eq_or_imp]
  tauto

/-- A read after a write in canonical form gives the byte written, and every other byte is as before. -/
theorem Memory.read_write {m : Memory} (h : Memory.wf m) (a : Nat) (b : Byte) (x : Nat) :
    Memory.read (Memory.write m a b) x = if x = a then b else Memory.read m x := by
  induction m with
  | nil =>
    unfold Memory.write
    split
    · split <;> simp_all
    · by_cases hx : x = a
      · simp [Memory.read_cons, hx]
      · rw [Memory.read_cons, if_neg (fun e => hx e.symm), if_neg hx]
  | cons c m ih =>
    obtain ⟨hlt, -, hm⟩ := Memory.wf_cons.mp h
    have tail : a < c.1 → Memory.read (c :: m) a = 0 := fun hac =>
      Memory.read_of_lt (by
        intro p hp
        rcases List.mem_cons.mp hp with rfl | hp
        · exact hac
        · exact lt_trans hac (hlt p hp))
    unfold Memory.write
    by_cases h1 : a < c.1
    · rw [if_pos h1]
      by_cases hb : b = 0
      · rw [if_pos hb]
        by_cases hx : x = a
        · rw [if_pos hx, hx, tail h1, hb]
        · rw [if_neg hx]
      · rw [if_neg hb, Memory.read_cons]
        by_cases hx : x = a
        · rw [if_pos hx.symm, if_pos hx]
        · rw [if_neg (fun e => hx e.symm), if_neg hx]
    · rw [if_neg h1]
      by_cases h2 : a = c.1
      · rw [if_pos h2]
        by_cases hb : b = 0
        · rw [if_pos hb]
          by_cases hx : x = a
          · rw [if_pos hx, hx, hb, h2]
            exact Memory.read_of_lt hlt
          · rw [if_neg hx, Memory.read_cons, if_neg (fun e => hx (by omega))]
        · rw [if_neg hb, Memory.read_cons, Memory.read_cons]
          by_cases hx : x = a
          · rw [if_pos hx.symm, if_pos hx]
          · rw [if_neg (fun e => hx e.symm), if_neg hx, if_neg (fun e => hx (by omega))]
      · rw [if_neg h2, Memory.read_cons, Memory.read_cons, ih hm]
        by_cases hc : c.1 = x
        · rw [if_pos hc, if_pos hc, if_neg (fun e => h2 (by omega))]
        · rw [if_neg hc, if_neg hc]

theorem Memory.read_write_same {m : Memory} (h : Memory.wf m) (a : Nat) (b : Byte) :
    Memory.read (Memory.write m a b) a = b := by simp [Memory.read_write h]

theorem Memory.read_write_other {m : Memory} (h : Memory.wf m) {a x : Nat} (b : Byte) (hx : x ≠ a) :
    Memory.read (Memory.write m a b) x = Memory.read m x := by simp [Memory.read_write h, hx]

/-- A listed address after a write is the one written or was listed before. -/
theorem Memory.mem_write {m : Memory} {a : Nat} {b : Byte} {p : Host.Cell} (h : p ∈ Memory.write m a b) :
    p = (a, b) ∧ b ≠ 0 ∨ p ∈ m := by
  induction m with
  | nil => unfold Memory.write at h; split at h <;> simp_all
  | cons c m ih =>
    unfold Memory.write at h
    split at h
    · split at h <;> simp_all
    · split at h
      · split at h
        · exact .inr (by simp [h])
        · rcases List.mem_cons.mp h with rfl | h
          · exact .inl ⟨rfl, ‹_›⟩
          · exact .inr (by simp [h])
      · rcases List.mem_cons.mp h with rfl | h
        · exact .inr (by simp)
        · rcases ih h with h | h
          · exact .inl h
          · exact .inr (by simp [h])

/-- A write keeps the canonical form. -/
theorem Memory.wf_write {m : Memory} (h : Memory.wf m) (a : Nat) (b : Byte) : Memory.wf (Memory.write m a b) := by
  induction m with
  | nil =>
    unfold Memory.write
    split
    · exact Memory.wf_nil
    · exact Memory.wf_cons.mpr ⟨by simp, ‹_›, Memory.wf_nil⟩
  | cons c m ih =>
    obtain ⟨hlt, hc, hm⟩ := Memory.wf_cons.mp h
    unfold Memory.write
    split
    · split
      · exact h
      · refine Memory.wf_cons.mpr ⟨?_, ‹_›, h⟩
        intro p hp
        rcases List.mem_cons.mp hp with rfl | hp
        · assumption
        · exact lt_trans ‹_› (hlt p hp)
    · split
      · split
        · exact hm
        · rename_i h2 _
          exact Memory.wf_cons.mpr ⟨fun p hp => h2 ▸ hlt p hp, ‹_›, hm⟩
      · refine Memory.wf_cons.mpr ⟨?_, hc, ih hm⟩
        intro p hp
        rcases Memory.mem_write hp with ⟨rfl, -⟩ | hp
        · show c.1 < a
          omega
        · exact hlt p hp

/-- A run of byte stores keeps the canonical form. -/
theorem Memory.wf_writeBytes {m : Memory} (h : Memory.wf m) (a : Nat) (bs : List Byte) :
    Memory.wf (Memory.writeBytes m a bs) := by
  induction bs generalizing m a with
  | nil => exact h
  | cons b bs ih => exact ih (Memory.wf_write h a b) (a + 1)

/-- After a run of byte stores an address inside the run reads as its byte, and every other address as before. -/
theorem Memory.read_writeBytes {m : Memory} (h : Memory.wf m) (a : Nat) (bs : List Byte) (x : Nat) :
    Memory.read (Memory.writeBytes m a bs) x =
      if a ≤ x ∧ x < a + bs.length then bs.getD (x - a) 0 else Memory.read m x := by
  induction bs generalizing m a with
  | nil =>
    rw [if_neg (by simp)]
    rfl
  | cons b bs ih =>
    rw [Memory.writeBytes, ih (Memory.wf_write h a b), Memory.read_write h]
    by_cases hx : x = a
    · rw [if_neg (by omega), if_pos hx, if_pos (by simp; omega), hx]
      simp
    · rw [if_neg hx]
      by_cases hin : a + 1 ≤ x ∧ x < a + 1 + bs.length
      · rw [if_pos hin, if_pos (by simp; omega)]
        rw [show x - a = (x - (a + 1)) + 1 by omega, List.getD_cons_succ]
      · rw [if_neg hin, if_neg (by simp; omega)]

theorem Memory.read_writeBytes_outside {m : Memory} (h : Memory.wf m) {a x : Nat} {bs : List Byte}
    (hx : x < a ∨ a + bs.length ≤ x) : Memory.read (Memory.writeBytes m a bs) x = Memory.read m x := by
  rw [Memory.read_writeBytes h, if_neg (by omega)]

/-- Every address a run of stores lists lies in the run or was listed before. -/
theorem Memory.mem_writeBytes {m : Memory} {a : Nat} {bs : List Byte} {p : Host.Cell}
    (h : p ∈ Memory.writeBytes m a bs) : (a ≤ p.1 ∧ p.1 < a + bs.length) ∨ p ∈ m := by
  induction bs generalizing m a with
  | nil => exact .inr h
  | cons b bs ih =>
    rcases ih h with h | h
    · exact .inl (by simp; omega)
    · rcases Memory.mem_write h with ⟨rfl, -⟩ | h
      · exact .inl (by simp)
      · exact .inr h

/-- The pages dirty after marking one are that page and those dirty before. -/
theorem mem_markPage {qs : List Nat} {p q : Nat} : q ∈ markPage qs p ↔ q = p ∨ q ∈ qs := by
  induction qs with
  | nil => simp [markPage]
  | cons r qs ih =>
    unfold markPage
    split
    · simp
    · split
      · simp_all
      · simp only [List.mem_cons, ih]; tauto

/-- Marking a page keeps the list of dirty pages rising. -/
theorem markPage_rising {qs : List Nat} (h : qs.Pairwise (· < ·)) (p : Nat) : (markPage qs p).Pairwise (· < ·) := by
  induction qs with
  | nil => simp [markPage]
  | cons r qs ih =>
    obtain ⟨hr, hq⟩ := List.pairwise_cons.mp h
    unfold markPage
    split
    · refine List.pairwise_cons.mpr ⟨?_, h⟩
      intro q hq'
      rcases List.mem_cons.mp hq' with rfl | hq'
      · assumption
      · exact lt_trans ‹_› (hr q hq')
    · split
      · exact h
      · refine List.pairwise_cons.mpr ⟨?_, ih hq⟩
        intro q hq'
        rcases mem_markPage.mp hq' with rfl | hq'
        · omega
        · exact hr q hq'

/-- The pages dirty after clearing one are the others. -/
theorem mem_cleanPage {qs : List Nat} {p q : Nat} : q ∈ cleanPage qs p ↔ q ∈ qs ∧ q ≠ p := by simp [cleanPage]

theorem cleanPage_rising {qs : List Nat} (h : qs.Pairwise (· < ·)) (p : Nat) : (cleanPage qs p).Pairwise (· < ·) :=
  h.filter _

end Sys2Proof.Machine
end

