-- ==== Sys2Proof/Laws/State.lean ====
section
/-!
SUPPORT. One lemma for each field of State after each named update, true by rfl.
-/

namespace Sys2Proof.Machine

/-! ## vramWrite -/

@[simp] theorem vramWrite_cfg (s : State) (a : Nat) (b : Byte) : (vramWrite s a b).cfg = s.cfg := rfl
@[simp] theorem vramWrite_command (s : State) (a : Nat) (b : Byte) : (vramWrite s a b).command = s.command := rfl
@[simp] theorem vramWrite_rop (s : State) (a : Nat) (b : Byte) : (vramWrite s a b).rop = s.rop := rfl
@[simp] theorem vramWrite_useSrc (s : State) (a : Nat) (b : Byte) : (vramWrite s a b).useSrc = s.useSrc := rfl
@[simp] theorem vramWrite_flags (s : State) (a : Nat) (b : Byte) : (vramWrite s a b).flags = s.flags := rfl
@[simp] theorem vramWrite_fgCol (s : State) (a : Nat) (b : Byte) : (vramWrite s a b).fgCol = s.fgCol := rfl
@[simp] theorem vramWrite_bgCol (s : State) (a : Nat) (b : Byte) : (vramWrite s a b).bgCol = s.bgCol := rfl
@[simp] theorem vramWrite_ckey (s : State) (a : Nat) (b : Byte) : (vramWrite s a b).ckey = s.ckey := rfl
@[simp] theorem vramWrite_style (s : State) (a : Nat) (b : Byte) : (vramWrite s a b).style = s.style := rfl
@[simp] theorem vramWrite_dstX (s : State) (a : Nat) (b : Byte) : (vramWrite s a b).dstX = s.dstX := rfl
@[simp] theorem vramWrite_dstY (s : State) (a : Nat) (b : Byte) : (vramWrite s a b).dstY = s.dstY := rfl
@[simp] theorem vramWrite_srcX (s : State) (a : Nat) (b : Byte) : (vramWrite s a b).srcX = s.srcX := rfl
@[simp] theorem vramWrite_srcY (s : State) (a : Nat) (b : Byte) : (vramWrite s a b).srcY = s.srcY := rfl
@[simp] theorem vramWrite_sizeX (s : State) (a : Nat) (b : Byte) : (vramWrite s a b).sizeX = s.sizeX := rfl
@[simp] theorem vramWrite_sizeY (s : State) (a : Nat) (b : Byte) : (vramWrite s a b).sizeY = s.sizeY := rfl
@[simp] theorem vramWrite_clipLeft (s : State) (a : Nat) (b : Byte) : (vramWrite s a b).clipLeft = s.clipLeft := rfl
@[simp] theorem vramWrite_clipTop (s : State) (a : Nat) (b : Byte) : (vramWrite s a b).clipTop = s.clipTop := rfl
@[simp] theorem vramWrite_clipRight (s : State) (a : Nat) (b : Byte) : (vramWrite s a b).clipRight = s.clipRight := rfl
@[simp] theorem vramWrite_clipBottom (s : State) (a : Nat) (b : Byte) :
    (vramWrite s a b).clipBottom = s.clipBottom := rfl
@[simp] theorem vramWrite_pattern (s : State) (a : Nat) (b : Byte) : (vramWrite s a b).pattern = s.pattern := rfl
@[simp] theorem vramWrite_pattern32 (s : State) (a : Nat) (b : Byte) : (vramWrite s a b).pattern32 = s.pattern32 := rfl
@[simp] theorem vramWrite_pat32Idx (s : State) (a : Nat) (b : Byte) : (vramWrite s a b).pat32Idx = s.pat32Idx := rfl
@[simp] theorem vramWrite_accelBpp (s : State) (a : Nat) (b : Byte) : (vramWrite s a b).accelBpp = s.accelBpp := rfl
@[simp] theorem vramWrite_rowOffset (s : State) (a : Nat) (b : Byte) : (vramWrite s a b).rowOffset = s.rowOffset := rfl
@[simp] theorem vramWrite_crtc (s : State) (a : Nat) (b : Byte) : (vramWrite s a b).crtc = s.crtc := rfl
@[simp] theorem vramWrite_seq (s : State) (a : Nat) (b : Byte) : (vramWrite s a b).seq = s.seq := rfl
@[simp] theorem vramWrite_gdc (s : State) (a : Nat) (b : Byte) : (vramWrite s a b).gdc = s.gdc := rfl
@[simp] theorem vramWrite_crtcIdx (s : State) (a : Nat) (b : Byte) : (vramWrite s a b).crtcIdx = s.crtcIdx := rfl
@[simp] theorem vramWrite_seqIdx (s : State) (a : Nat) (b : Byte) : (vramWrite s a b).seqIdx = s.seqIdx := rfl
@[simp] theorem vramWrite_gdcIdx (s : State) (a : Nat) (b : Byte) : (vramWrite s a b).gdcIdx = s.gdcIdx := rfl
@[simp] theorem vramWrite_wbankReg (s : State) (a : Nat) (b : Byte) : (vramWrite s a b).wbankReg = s.wbankReg := rfl
@[simp] theorem vramWrite_rbankReg (s : State) (a : Nat) (b : Byte) : (vramWrite s a b).rbankReg = s.rbankReg := rfl
@[simp] theorem vramWrite_pciMemEn (s : State) (a : Nat) (b : Byte) : (vramWrite s a b).pciMemEn = s.pciMemEn := rfl
@[simp] theorem vramWrite_linearBase (s : State) (a : Nat) (b : Byte) :
    (vramWrite s a b).linearBase = s.linearBase := rfl
@[simp] theorem vramWrite_mmioBase (s : State) (a : Nat) (b : Byte) : (vramWrite s a b).mmioBase = s.mmioBase := rfl
@[simp] theorem vramWrite_latch (s : State) (a : Nat) (b : Byte) : (vramWrite s a b).latch = s.latch := rfl
@[simp] theorem vramWrite_vram (s : State) (a : Nat) (b : Byte) : (vramWrite s a b).vram = s.vram.write a b := rfl
@[simp] theorem vramWrite_dirty (s : State) (a : Nat) (b : Byte) :
    (vramWrite s a b).dirty = markPage s.dirty (a / 4096) := rfl
@[simp] theorem vramWrite_eng (s : State) (a : Nat) (b : Byte) : (vramWrite s a b).eng = s.eng := rfl
@[simp] theorem vramWrite_irq (s : State) (a : Nat) (b : Byte) : (vramWrite s a b).irq = s.irq := rfl
@[simp] theorem vramWrite_recalcs (s : State) (a : Nat) (b : Byte) : (vramWrite s a b).recalcs = s.recalcs := rfl
@[simp] theorem vramWrite_readData (s : State) (a : Nat) (b : Byte) : (vramWrite s a b).readData = s.readData := rfl
@[simp] theorem vramWrite_draws (s : State) (a : Nat) (b : Byte) : (vramWrite s a b).draws = s.draws := rfl
@[simp] theorem vramWrite_pending (s : State) (a : Nat) (b : Byte) : (vramWrite s a b).pending = s.pending := rfl

/-! ## writePixel -/

@[simp] theorem writePixel_cfg (s : State) (off v : Word) : (writePixel s off v).cfg = s.cfg := rfl
@[simp] theorem writePixel_command (s : State) (off v : Word) : (writePixel s off v).command = s.command := rfl
@[simp] theorem writePixel_rop (s : State) (off v : Word) : (writePixel s off v).rop = s.rop := rfl
@[simp] theorem writePixel_useSrc (s : State) (off v : Word) : (writePixel s off v).useSrc = s.useSrc := rfl
@[simp] theorem writePixel_flags (s : State) (off v : Word) : (writePixel s off v).flags = s.flags := rfl
@[simp] theorem writePixel_fgCol (s : State) (off v : Word) : (writePixel s off v).fgCol = s.fgCol := rfl
@[simp] theorem writePixel_bgCol (s : State) (off v : Word) : (writePixel s off v).bgCol = s.bgCol := rfl
@[simp] theorem writePixel_ckey (s : State) (off v : Word) : (writePixel s off v).ckey = s.ckey := rfl
@[simp] theorem writePixel_style (s : State) (off v : Word) : (writePixel s off v).style = s.style := rfl
@[simp] theorem writePixel_dstX (s : State) (off v : Word) : (writePixel s off v).dstX = s.dstX := rfl
@[simp] theorem writePixel_dstY (s : State) (off v : Word) : (writePixel s off v).dstY = s.dstY := rfl
@[simp] theorem writePixel_srcX (s : State) (off v : Word) : (writePixel s off v).srcX = s.srcX := rfl
@[simp] theorem writePixel_srcY (s : State) (off v : Word) : (writePixel s off v).srcY = s.srcY := rfl
@[simp] theorem writePixel_sizeX (s : State) (off v : Word) : (writePixel s off v).sizeX = s.sizeX := rfl
@[simp] theorem writePixel_sizeY (s : State) (off v : Word) : (writePixel s off v).sizeY = s.sizeY := rfl
@[simp] theorem writePixel_clipLeft (s : State) (off v : Word) : (writePixel s off v).clipLeft = s.clipLeft := rfl
@[simp] theorem writePixel_clipTop (s : State) (off v : Word) : (writePixel s off v).clipTop = s.clipTop := rfl
@[simp] theorem writePixel_clipRight (s : State) (off v : Word) : (writePixel s off v).clipRight = s.clipRight := rfl
@[simp] theorem writePixel_clipBottom (s : State) (off v : Word) : (writePixel s off v).clipBottom = s.clipBottom := rfl
@[simp] theorem writePixel_pattern (s : State) (off v : Word) : (writePixel s off v).pattern = s.pattern := rfl
@[simp] theorem writePixel_pattern32 (s : State) (off v : Word) : (writePixel s off v).pattern32 = s.pattern32 := rfl
@[simp] theorem writePixel_pat32Idx (s : State) (off v : Word) : (writePixel s off v).pat32Idx = s.pat32Idx := rfl
@[simp] theorem writePixel_accelBpp (s : State) (off v : Word) : (writePixel s off v).accelBpp = s.accelBpp := rfl
@[simp] theorem writePixel_rowOffset (s : State) (off v : Word) : (writePixel s off v).rowOffset = s.rowOffset := rfl
@[simp] theorem writePixel_crtc (s : State) (off v : Word) : (writePixel s off v).crtc = s.crtc := rfl
@[simp] theorem writePixel_seq (s : State) (off v : Word) : (writePixel s off v).seq = s.seq := rfl
@[simp] theorem writePixel_gdc (s : State) (off v : Word) : (writePixel s off v).gdc = s.gdc := rfl
@[simp] theorem writePixel_crtcIdx (s : State) (off v : Word) : (writePixel s off v).crtcIdx = s.crtcIdx := rfl
@[simp] theorem writePixel_seqIdx (s : State) (off v : Word) : (writePixel s off v).seqIdx = s.seqIdx := rfl
@[simp] theorem writePixel_gdcIdx (s : State) (off v : Word) : (writePixel s off v).gdcIdx = s.gdcIdx := rfl
@[simp] theorem writePixel_wbankReg (s : State) (off v : Word) : (writePixel s off v).wbankReg = s.wbankReg := rfl
@[simp] theorem writePixel_rbankReg (s : State) (off v : Word) : (writePixel s off v).rbankReg = s.rbankReg := rfl
@[simp] theorem writePixel_pciMemEn (s : State) (off v : Word) : (writePixel s off v).pciMemEn = s.pciMemEn := rfl
@[simp] theorem writePixel_linearBase (s : State) (off v : Word) : (writePixel s off v).linearBase = s.linearBase := rfl
@[simp] theorem writePixel_mmioBase (s : State) (off v : Word) : (writePixel s off v).mmioBase = s.mmioBase := rfl
@[simp] theorem writePixel_latch (s : State) (off v : Word) : (writePixel s off v).latch = s.latch := rfl
@[simp] theorem writePixel_vram (s : State) (off v : Word) :
    (writePixel s off v).vram = s.vram.writeBytes (elemAddr s off) (bytesOf s.accelBpp.bytes v) := rfl
@[simp] theorem writePixel_dirty (s : State) (off v : Word) :
    (writePixel s off v).dirty = markPage s.dirty (elemAddr s off / 4096) := rfl
@[simp] theorem writePixel_eng (s : State) (off v : Word) : (writePixel s off v).eng = s.eng := rfl
@[simp] theorem writePixel_irq (s : State) (off v : Word) : (writePixel s off v).irq = s.irq := rfl
@[simp] theorem writePixel_recalcs (s : State) (off v : Word) : (writePixel s off v).recalcs = s.recalcs := rfl
@[simp] theorem writePixel_readData (s : State) (off v : Word) : (writePixel s off v).readData = s.readData := rfl
@[simp] theorem writePixel_draws (s : State) (off v : Word) : (writePixel s off v).draws = s.draws := rfl
@[simp] theorem writePixel_pending (s : State) (off v : Word) : (writePixel s off v).pending = s.pending := rfl

/-! ## finishRead -/

@[simp] theorem finishRead_cfg (s : State) (v : Word) : (finishRead s v).cfg = s.cfg := rfl
@[simp] theorem finishRead_command (s : State) (v : Word) : (finishRead s v).command = s.command := rfl
@[simp] theorem finishRead_rop (s : State) (v : Word) : (finishRead s v).rop = s.rop := rfl
@[simp] theorem finishRead_useSrc (s : State) (v : Word) : (finishRead s v).useSrc = s.useSrc := rfl
@[simp] theorem finishRead_flags (s : State) (v : Word) : (finishRead s v).flags = s.flags := rfl
@[simp] theorem finishRead_fgCol (s : State) (v : Word) : (finishRead s v).fgCol = s.fgCol := rfl
@[simp] theorem finishRead_bgCol (s : State) (v : Word) : (finishRead s v).bgCol = s.bgCol := rfl
@[simp] theorem finishRead_ckey (s : State) (v : Word) : (finishRead s v).ckey = s.ckey := rfl
@[simp] theorem finishRead_style (s : State) (v : Word) : (finishRead s v).style = s.style := rfl
@[simp] theorem finishRead_dstX (s : State) (v : Word) : (finishRead s v).dstX = s.dstX := rfl
@[simp] theorem finishRead_dstY (s : State) (v : Word) : (finishRead s v).dstY = s.dstY := rfl
@[simp] theorem finishRead_srcX (s : State) (v : Word) : (finishRead s v).srcX = s.srcX := rfl
@[simp] theorem finishRead_srcY (s : State) (v : Word) : (finishRead s v).srcY = s.srcY := rfl
@[simp] theorem finishRead_sizeX (s : State) (v : Word) : (finishRead s v).sizeX = s.sizeX := rfl
@[simp] theorem finishRead_sizeY (s : State) (v : Word) : (finishRead s v).sizeY = s.sizeY := rfl
@[simp] theorem finishRead_clipLeft (s : State) (v : Word) : (finishRead s v).clipLeft = s.clipLeft := rfl
@[simp] theorem finishRead_clipTop (s : State) (v : Word) : (finishRead s v).clipTop = s.clipTop := rfl
@[simp] theorem finishRead_clipRight (s : State) (v : Word) : (finishRead s v).clipRight = s.clipRight := rfl
@[simp] theorem finishRead_clipBottom (s : State) (v : Word) : (finishRead s v).clipBottom = s.clipBottom := rfl
@[simp] theorem finishRead_pattern (s : State) (v : Word) : (finishRead s v).pattern = s.pattern := rfl
@[simp] theorem finishRead_pattern32 (s : State) (v : Word) : (finishRead s v).pattern32 = s.pattern32 := rfl
@[simp] theorem finishRead_pat32Idx (s : State) (v : Word) : (finishRead s v).pat32Idx = s.pat32Idx := rfl
@[simp] theorem finishRead_accelBpp (s : State) (v : Word) : (finishRead s v).accelBpp = s.accelBpp := rfl
@[simp] theorem finishRead_rowOffset (s : State) (v : Word) : (finishRead s v).rowOffset = s.rowOffset := rfl
@[simp] theorem finishRead_crtc (s : State) (v : Word) : (finishRead s v).crtc = s.crtc := rfl
@[simp] theorem finishRead_seq (s : State) (v : Word) : (finishRead s v).seq = s.seq := rfl
@[simp] theorem finishRead_gdc (s : State) (v : Word) : (finishRead s v).gdc = s.gdc := rfl
@[simp] theorem finishRead_crtcIdx (s : State) (v : Word) : (finishRead s v).crtcIdx = s.crtcIdx := rfl
@[simp] theorem finishRead_seqIdx (s : State) (v : Word) : (finishRead s v).seqIdx = s.seqIdx := rfl
@[simp] theorem finishRead_gdcIdx (s : State) (v : Word) : (finishRead s v).gdcIdx = s.gdcIdx := rfl
@[simp] theorem finishRead_wbankReg (s : State) (v : Word) : (finishRead s v).wbankReg = s.wbankReg := rfl
@[simp] theorem finishRead_rbankReg (s : State) (v : Word) : (finishRead s v).rbankReg = s.rbankReg := rfl
@[simp] theorem finishRead_pciMemEn (s : State) (v : Word) : (finishRead s v).pciMemEn = s.pciMemEn := rfl
@[simp] theorem finishRead_linearBase (s : State) (v : Word) : (finishRead s v).linearBase = s.linearBase := rfl
@[simp] theorem finishRead_mmioBase (s : State) (v : Word) : (finishRead s v).mmioBase = s.mmioBase := rfl
@[simp] theorem finishRead_latch (s : State) (v : Word) : (finishRead s v).latch = s.latch := rfl
@[simp] theorem finishRead_vram (s : State) (v : Word) : (finishRead s v).vram = s.vram := rfl
@[simp] theorem finishRead_dirty (s : State) (v : Word) : (finishRead s v).dirty = s.dirty := rfl
@[simp] theorem finishRead_eng (s : State) (v : Word) : (finishRead s v).eng = s.eng := rfl
@[simp] theorem finishRead_irq (s : State) (v : Word) : (finishRead s v).irq = s.irq := rfl
@[simp] theorem finishRead_recalcs (s : State) (v : Word) : (finishRead s v).recalcs = s.recalcs := rfl
@[simp] theorem finishRead_readData (s : State) (v : Word) : (finishRead s v).readData = v := rfl
@[simp] theorem finishRead_draws (s : State) (v : Word) : (finishRead s v).draws = s.draws + 1 := rfl
@[simp] theorem finishRead_pending (s : State) (v : Word) : (finishRead s v).pending = s.pending := rfl

/-! ## acceptCommand -/

@[simp] theorem acceptCommand_cfg (code : Byte) (s : State) : (acceptCommand code s).cfg = s.cfg := rfl
@[simp] theorem acceptCommand_command (code : Byte) (s : State) : (acceptCommand code s).command = code := rfl
@[simp] theorem acceptCommand_rop (code : Byte) (s : State) : (acceptCommand code s).rop = s.rop := rfl
@[simp] theorem acceptCommand_useSrc (code : Byte) (s : State) : (acceptCommand code s).useSrc = s.useSrc := rfl
@[simp] theorem acceptCommand_flags (code : Byte) (s : State) : (acceptCommand code s).flags = s.flags := rfl
@[simp] theorem acceptCommand_fgCol (code : Byte) (s : State) : (acceptCommand code s).fgCol = s.fgCol := rfl
@[simp] theorem acceptCommand_bgCol (code : Byte) (s : State) : (acceptCommand code s).bgCol = s.bgCol := rfl
@[simp] theorem acceptCommand_ckey (code : Byte) (s : State) : (acceptCommand code s).ckey = s.ckey := rfl
@[simp] theorem acceptCommand_style (code : Byte) (s : State) : (acceptCommand code s).style = s.style := rfl
@[simp] theorem acceptCommand_dstX (code : Byte) (s : State) : (acceptCommand code s).dstX = s.dstX := rfl
@[simp] theorem acceptCommand_dstY (code : Byte) (s : State) : (acceptCommand code s).dstY = s.dstY := rfl
@[simp] theorem acceptCommand_srcX (code : Byte) (s : State) : (acceptCommand code s).srcX = s.srcX := rfl
@[simp] theorem acceptCommand_srcY (code : Byte) (s : State) : (acceptCommand code s).srcY = s.srcY := rfl
@[simp] theorem acceptCommand_sizeX (code : Byte) (s : State) : (acceptCommand code s).sizeX = s.sizeX := rfl
@[simp] theorem acceptCommand_sizeY (code : Byte) (s : State) : (acceptCommand code s).sizeY = s.sizeY := rfl
@[simp] theorem acceptCommand_clipLeft (code : Byte) (s : State) : (acceptCommand code s).clipLeft = s.clipLeft := rfl
@[simp] theorem acceptCommand_clipTop (code : Byte) (s : State) : (acceptCommand code s).clipTop = s.clipTop := rfl
@[simp] theorem acceptCommand_clipRight (code : Byte) (s : State) :
    (acceptCommand code s).clipRight = s.clipRight := rfl
@[simp] theorem acceptCommand_clipBottom (code : Byte) (s : State) :
    (acceptCommand code s).clipBottom = s.clipBottom := rfl
@[simp] theorem acceptCommand_pattern (code : Byte) (s : State) : (acceptCommand code s).pattern = s.pattern := rfl
@[simp] theorem acceptCommand_pattern32 (code : Byte) (s : State) :
    (acceptCommand code s).pattern32 = s.pattern32 := rfl
@[simp] theorem acceptCommand_pat32Idx (code : Byte) (s : State) : (acceptCommand code s).pat32Idx = s.pat32Idx := rfl
@[simp] theorem acceptCommand_accelBpp (code : Byte) (s : State) : (acceptCommand code s).accelBpp = s.accelBpp := rfl
@[simp] theorem acceptCommand_rowOffset (code : Byte) (s : State) :
    (acceptCommand code s).rowOffset = s.rowOffset := rfl
@[simp] theorem acceptCommand_crtc (code : Byte) (s : State) : (acceptCommand code s).crtc = s.crtc := rfl
@[simp] theorem acceptCommand_seq (code : Byte) (s : State) : (acceptCommand code s).seq = s.seq := rfl
@[simp] theorem acceptCommand_gdc (code : Byte) (s : State) : (acceptCommand code s).gdc = s.gdc := rfl
@[simp] theorem acceptCommand_crtcIdx (code : Byte) (s : State) : (acceptCommand code s).crtcIdx = s.crtcIdx := rfl
@[simp] theorem acceptCommand_seqIdx (code : Byte) (s : State) : (acceptCommand code s).seqIdx = s.seqIdx := rfl
@[simp] theorem acceptCommand_gdcIdx (code : Byte) (s : State) : (acceptCommand code s).gdcIdx = s.gdcIdx := rfl
@[simp] theorem acceptCommand_wbankReg (code : Byte) (s : State) : (acceptCommand code s).wbankReg = s.wbankReg := rfl
@[simp] theorem acceptCommand_rbankReg (code : Byte) (s : State) : (acceptCommand code s).rbankReg = s.rbankReg := rfl
@[simp] theorem acceptCommand_pciMemEn (code : Byte) (s : State) : (acceptCommand code s).pciMemEn = s.pciMemEn := rfl
@[simp] theorem acceptCommand_linearBase (code : Byte) (s : State) :
    (acceptCommand code s).linearBase = s.linearBase := rfl
@[simp] theorem acceptCommand_mmioBase (code : Byte) (s : State) : (acceptCommand code s).mmioBase = s.mmioBase := rfl
@[simp] theorem acceptCommand_latch (code : Byte) (s : State) : (acceptCommand code s).latch = s.latch := rfl
@[simp] theorem acceptCommand_vram (code : Byte) (s : State) : (acceptCommand code s).vram = s.vram := rfl
@[simp] theorem acceptCommand_dirty (code : Byte) (s : State) : (acceptCommand code s).dirty = s.dirty := rfl
@[simp] theorem acceptCommand_eng (code : Byte) (s : State) : (acceptCommand code s).eng = .idle := rfl
@[simp] theorem acceptCommand_irq (code : Byte) (s : State) : (acceptCommand code s).irq = s.irq := rfl
@[simp] theorem acceptCommand_recalcs (code : Byte) (s : State) : (acceptCommand code s).recalcs = s.recalcs := rfl
@[simp] theorem acceptCommand_readData (code : Byte) (s : State) : (acceptCommand code s).readData = s.readData := rfl
@[simp] theorem acceptCommand_draws (code : Byte) (s : State) : (acceptCommand code s).draws = s.draws := rfl
@[simp] theorem acceptCommand_pending (code : Byte) (s : State) : (acceptCommand code s).pending = s.pending := rfl

/-! ## bitbltAwait -/

@[simp] theorem bitbltAwait_cfg (c : Cont) (s : State) : (bitbltAwait c s).cfg = s.cfg := rfl
@[simp] theorem bitbltAwait_command (c : Cont) (s : State) : (bitbltAwait c s).command = s.command := rfl
@[simp] theorem bitbltAwait_rop (c : Cont) (s : State) : (bitbltAwait c s).rop = s.rop := rfl
@[simp] theorem bitbltAwait_useSrc (c : Cont) (s : State) : (bitbltAwait c s).useSrc = s.useSrc := rfl
@[simp] theorem bitbltAwait_flags (c : Cont) (s : State) : (bitbltAwait c s).flags = s.flags := rfl
@[simp] theorem bitbltAwait_fgCol (c : Cont) (s : State) : (bitbltAwait c s).fgCol = s.fgCol := rfl
@[simp] theorem bitbltAwait_bgCol (c : Cont) (s : State) : (bitbltAwait c s).bgCol = s.bgCol := rfl
@[simp] theorem bitbltAwait_ckey (c : Cont) (s : State) : (bitbltAwait c s).ckey = s.ckey := rfl
@[simp] theorem bitbltAwait_style (c : Cont) (s : State) : (bitbltAwait c s).style = s.style := rfl
@[simp] theorem bitbltAwait_dstX (c : Cont) (s : State) : (bitbltAwait c s).dstX = s.dstX := rfl
@[simp] theorem bitbltAwait_dstY (c : Cont) (s : State) : (bitbltAwait c s).dstY = s.dstY := rfl
@[simp] theorem bitbltAwait_srcX (c : Cont) (s : State) : (bitbltAwait c s).srcX = s.srcX := rfl
@[simp] theorem bitbltAwait_srcY (c : Cont) (s : State) : (bitbltAwait c s).srcY = s.srcY := rfl
@[simp] theorem bitbltAwait_sizeX (c : Cont) (s : State) : (bitbltAwait c s).sizeX = s.sizeX := rfl
@[simp] theorem bitbltAwait_sizeY (c : Cont) (s : State) : (bitbltAwait c s).sizeY = s.sizeY := rfl
@[simp] theorem bitbltAwait_clipLeft (c : Cont) (s : State) : (bitbltAwait c s).clipLeft = s.clipLeft := rfl
@[simp] theorem bitbltAwait_clipTop (c : Cont) (s : State) : (bitbltAwait c s).clipTop = s.clipTop := rfl
@[simp] theorem bitbltAwait_clipRight (c : Cont) (s : State) : (bitbltAwait c s).clipRight = s.clipRight := rfl
@[simp] theorem bitbltAwait_clipBottom (c : Cont) (s : State) : (bitbltAwait c s).clipBottom = s.clipBottom := rfl
@[simp] theorem bitbltAwait_pattern (c : Cont) (s : State) : (bitbltAwait c s).pattern = s.pattern := rfl
@[simp] theorem bitbltAwait_pattern32 (c : Cont) (s : State) : (bitbltAwait c s).pattern32 = s.pattern32 := rfl
@[simp] theorem bitbltAwait_pat32Idx (c : Cont) (s : State) : (bitbltAwait c s).pat32Idx = s.pat32Idx := rfl
@[simp] theorem bitbltAwait_accelBpp (c : Cont) (s : State) : (bitbltAwait c s).accelBpp = s.accelBpp := rfl
@[simp] theorem bitbltAwait_rowOffset (c : Cont) (s : State) : (bitbltAwait c s).rowOffset = s.rowOffset := rfl
@[simp] theorem bitbltAwait_crtc (c : Cont) (s : State) : (bitbltAwait c s).crtc = s.crtc := rfl
@[simp] theorem bitbltAwait_seq (c : Cont) (s : State) : (bitbltAwait c s).seq = s.seq := rfl
@[simp] theorem bitbltAwait_gdc (c : Cont) (s : State) : (bitbltAwait c s).gdc = s.gdc := rfl
@[simp] theorem bitbltAwait_crtcIdx (c : Cont) (s : State) : (bitbltAwait c s).crtcIdx = s.crtcIdx := rfl
@[simp] theorem bitbltAwait_seqIdx (c : Cont) (s : State) : (bitbltAwait c s).seqIdx = s.seqIdx := rfl
@[simp] theorem bitbltAwait_gdcIdx (c : Cont) (s : State) : (bitbltAwait c s).gdcIdx = s.gdcIdx := rfl
@[simp] theorem bitbltAwait_wbankReg (c : Cont) (s : State) : (bitbltAwait c s).wbankReg = s.wbankReg := rfl
@[simp] theorem bitbltAwait_rbankReg (c : Cont) (s : State) : (bitbltAwait c s).rbankReg = s.rbankReg := rfl
@[simp] theorem bitbltAwait_pciMemEn (c : Cont) (s : State) : (bitbltAwait c s).pciMemEn = s.pciMemEn := rfl
@[simp] theorem bitbltAwait_linearBase (c : Cont) (s : State) : (bitbltAwait c s).linearBase = s.linearBase := rfl
@[simp] theorem bitbltAwait_mmioBase (c : Cont) (s : State) : (bitbltAwait c s).mmioBase = s.mmioBase := rfl
@[simp] theorem bitbltAwait_latch (c : Cont) (s : State) : (bitbltAwait c s).latch = s.latch := rfl
@[simp] theorem bitbltAwait_vram (c : Cont) (s : State) : (bitbltAwait c s).vram = s.vram := rfl
@[simp] theorem bitbltAwait_dirty (c : Cont) (s : State) : (bitbltAwait c s).dirty = s.dirty := rfl
@[simp] theorem bitbltAwait_eng (c : Cont) (s : State) : (bitbltAwait c s).eng = .awaitSrc c := rfl
@[simp] theorem bitbltAwait_irq (c : Cont) (s : State) : (bitbltAwait c s).irq = s.irq := rfl
@[simp] theorem bitbltAwait_recalcs (c : Cont) (s : State) : (bitbltAwait c s).recalcs = s.recalcs := rfl
@[simp] theorem bitbltAwait_readData (c : Cont) (s : State) : (bitbltAwait c s).readData = s.readData := rfl
@[simp] theorem bitbltAwait_draws (c : Cont) (s : State) : (bitbltAwait c s).draws = s.draws := rfl
@[simp] theorem bitbltAwait_pending (c : Cont) (s : State) : (bitbltAwait c s).pending = s.pending := rfl

/-! ## ropWrite -/

@[simp] theorem ropWrite_cfg (b : Byte) (s : State) : (ropWrite b s).cfg = s.cfg := rfl
@[simp] theorem ropWrite_command (b : Byte) (s : State) : (ropWrite b s).command = s.command := rfl
@[simp] theorem ropWrite_rop (b : Byte) (s : State) : (ropWrite b s).rop = b := rfl
@[simp] theorem ropWrite_useSrc (b : Byte) (s : State) : (ropWrite b s).useSrc = useSrcOf b := rfl
@[simp] theorem ropWrite_flags (b : Byte) (s : State) : (ropWrite b s).flags = s.flags := rfl
@[simp] theorem ropWrite_fgCol (b : Byte) (s : State) : (ropWrite b s).fgCol = s.fgCol := rfl
@[simp] theorem ropWrite_bgCol (b : Byte) (s : State) : (ropWrite b s).bgCol = s.bgCol := rfl
@[simp] theorem ropWrite_ckey (b : Byte) (s : State) : (ropWrite b s).ckey = s.ckey := rfl
@[simp] theorem ropWrite_style (b : Byte) (s : State) : (ropWrite b s).style = s.style := rfl
@[simp] theorem ropWrite_dstX (b : Byte) (s : State) : (ropWrite b s).dstX = s.dstX := rfl
@[simp] theorem ropWrite_dstY (b : Byte) (s : State) : (ropWrite b s).dstY = s.dstY := rfl
@[simp] theorem ropWrite_srcX (b : Byte) (s : State) : (ropWrite b s).srcX = s.srcX := rfl
@[simp] theorem ropWrite_srcY (b : Byte) (s : State) : (ropWrite b s).srcY = s.srcY := rfl
@[simp] theorem ropWrite_sizeX (b : Byte) (s : State) : (ropWrite b s).sizeX = s.sizeX := rfl
@[simp] theorem ropWrite_sizeY (b : Byte) (s : State) : (ropWrite b s).sizeY = s.sizeY := rfl
@[simp] theorem ropWrite_clipLeft (b : Byte) (s : State) : (ropWrite b s).clipLeft = s.clipLeft := rfl
@[simp] theorem ropWrite_clipTop (b : Byte) (s : State) : (ropWrite b s).clipTop = s.clipTop := rfl
@[simp] theorem ropWrite_clipRight (b : Byte) (s : State) : (ropWrite b s).clipRight = s.clipRight := rfl
@[simp] theorem ropWrite_clipBottom (b : Byte) (s : State) : (ropWrite b s).clipBottom = s.clipBottom := rfl
@[simp] theorem ropWrite_pattern (b : Byte) (s : State) : (ropWrite b s).pattern = s.pattern := rfl
@[simp] theorem ropWrite_pattern32 (b : Byte) (s : State) : (ropWrite b s).pattern32 = s.pattern32 := rfl
@[simp] theorem ropWrite_pat32Idx (b : Byte) (s : State) : (ropWrite b s).pat32Idx = s.pat32Idx := rfl
@[simp] theorem ropWrite_accelBpp (b : Byte) (s : State) : (ropWrite b s).accelBpp = s.accelBpp := rfl
@[simp] theorem ropWrite_rowOffset (b : Byte) (s : State) : (ropWrite b s).rowOffset = s.rowOffset := rfl
@[simp] theorem ropWrite_crtc (b : Byte) (s : State) : (ropWrite b s).crtc = s.crtc := rfl
@[simp] theorem ropWrite_seq (b : Byte) (s : State) : (ropWrite b s).seq = s.seq := rfl
@[simp] theorem ropWrite_gdc (b : Byte) (s : State) : (ropWrite b s).gdc = s.gdc := rfl
@[simp] theorem ropWrite_crtcIdx (b : Byte) (s : State) : (ropWrite b s).crtcIdx = s.crtcIdx := rfl
@[simp] theorem ropWrite_seqIdx (b : Byte) (s : State) : (ropWrite b s).seqIdx = s.seqIdx := rfl
@[simp] theorem ropWrite_gdcIdx (b : Byte) (s : State) : (ropWrite b s).gdcIdx = s.gdcIdx := rfl
@[simp] theorem ropWrite_wbankReg (b : Byte) (s : State) : (ropWrite b s).wbankReg = s.wbankReg := rfl
@[simp] theorem ropWrite_rbankReg (b : Byte) (s : State) : (ropWrite b s).rbankReg = s.rbankReg := rfl
@[simp] theorem ropWrite_pciMemEn (b : Byte) (s : State) : (ropWrite b s).pciMemEn = s.pciMemEn := rfl
@[simp] theorem ropWrite_linearBase (b : Byte) (s : State) : (ropWrite b s).linearBase = s.linearBase := rfl
@[simp] theorem ropWrite_mmioBase (b : Byte) (s : State) : (ropWrite b s).mmioBase = s.mmioBase := rfl
@[simp] theorem ropWrite_latch (b : Byte) (s : State) : (ropWrite b s).latch = s.latch := rfl
@[simp] theorem ropWrite_vram (b : Byte) (s : State) : (ropWrite b s).vram = s.vram := rfl
@[simp] theorem ropWrite_dirty (b : Byte) (s : State) : (ropWrite b s).dirty = s.dirty := rfl
@[simp] theorem ropWrite_eng (b : Byte) (s : State) : (ropWrite b s).eng = s.eng := rfl
@[simp] theorem ropWrite_irq (b : Byte) (s : State) : (ropWrite b s).irq = s.irq := rfl
@[simp] theorem ropWrite_recalcs (b : Byte) (s : State) : (ropWrite b s).recalcs = s.recalcs := rfl
@[simp] theorem ropWrite_readData (b : Byte) (s : State) : (ropWrite b s).readData = s.readData := rfl
@[simp] theorem ropWrite_draws (b : Byte) (s : State) : (ropWrite b s).draws = s.draws := rfl
@[simp] theorem ropWrite_pending (b : Byte) (s : State) : (ropWrite b s).pending = s.pending := rfl

/-! ## patternWrite -/

@[simp] theorem patternWrite_cfg (j : BitVec 7) (b : Byte) (s : State) : (patternWrite j b s).cfg = s.cfg := rfl
@[simp] theorem patternWrite_command (j : BitVec 7) (b : Byte) (s : State) :
    (patternWrite j b s).command = s.command := rfl
@[simp] theorem patternWrite_rop (j : BitVec 7) (b : Byte) (s : State) : (patternWrite j b s).rop = s.rop := rfl
@[simp] theorem patternWrite_useSrc (j : BitVec 7) (b : Byte) (s : State) :
    (patternWrite j b s).useSrc = s.useSrc := rfl
@[simp] theorem patternWrite_flags (j : BitVec 7) (b : Byte) (s : State) : (patternWrite j b s).flags = s.flags := rfl
@[simp] theorem patternWrite_fgCol (j : BitVec 7) (b : Byte) (s : State) : (patternWrite j b s).fgCol = s.fgCol := rfl
@[simp] theorem patternWrite_bgCol (j : BitVec 7) (b : Byte) (s : State) : (patternWrite j b s).bgCol = s.bgCol := rfl
@[simp] theorem patternWrite_ckey (j : BitVec 7) (b : Byte) (s : State) : (patternWrite j b s).ckey = s.ckey := rfl
@[simp] theorem patternWrite_style (j : BitVec 7) (b : Byte) (s : State) : (patternWrite j b s).style = s.style := rfl
@[simp] theorem patternWrite_dstX (j : BitVec 7) (b : Byte) (s : State) : (patternWrite j b s).dstX = s.dstX := rfl
@[simp] theorem patternWrite_dstY (j : BitVec 7) (b : Byte) (s : State) : (patternWrite j b s).dstY = s.dstY := rfl
@[simp] theorem patternWrite_srcX (j : BitVec 7) (b : Byte) (s : State) : (patternWrite j b s).srcX = s.srcX := rfl
@[simp] theorem patternWrite_srcY (j : BitVec 7) (b : Byte) (s : State) : (patternWrite j b s).srcY = s.srcY := rfl
@[simp] theorem patternWrite_sizeX (j : BitVec 7) (b : Byte) (s : State) : (patternWrite j b s).sizeX = s.sizeX := rfl
@[simp] theorem patternWrite_sizeY (j : BitVec 7) (b : Byte) (s : State) : (patternWrite j b s).sizeY = s.sizeY := rfl
@[simp] theorem patternWrite_clipLeft (j : BitVec 7) (b : Byte) (s : State) :
    (patternWrite j b s).clipLeft = s.clipLeft := rfl
@[simp] theorem patternWrite_clipTop (j : BitVec 7) (b : Byte) (s : State) :
    (patternWrite j b s).clipTop = s.clipTop := rfl
@[simp] theorem patternWrite_clipRight (j : BitVec 7) (b : Byte) (s : State) :
    (patternWrite j b s).clipRight = s.clipRight := rfl
@[simp] theorem patternWrite_clipBottom (j : BitVec 7) (b : Byte) (s : State) :
    (patternWrite j b s).clipBottom = s.clipBottom := rfl
@[simp] theorem patternWrite_pattern (j : BitVec 7) (b : Byte) (s : State) :
    (patternWrite j b s).pattern = s.pattern.set j.toNat b j.isLt := rfl
@[simp] theorem patternWrite_pattern32 (j : BitVec 7) (b : Byte) (s : State) :
    (patternWrite j b s).pattern32 = s.pattern32.set s.pat32Idx.toNat b s.pat32Idx.isLt := rfl
@[simp] theorem patternWrite_pat32Idx (j : BitVec 7) (b : Byte) (s : State) :
    (patternWrite j b s).pat32Idx = s.pat32Idx + 1 := rfl
@[simp] theorem patternWrite_accelBpp (j : BitVec 7) (b : Byte) (s : State) :
    (patternWrite j b s).accelBpp = s.accelBpp := rfl
@[simp] theorem patternWrite_rowOffset (j : BitVec 7) (b : Byte) (s : State) :
    (patternWrite j b s).rowOffset = s.rowOffset := rfl
@[simp] theorem patternWrite_crtc (j : BitVec 7) (b : Byte) (s : State) : (patternWrite j b s).crtc = s.crtc := rfl
@[simp] theorem patternWrite_seq (j : BitVec 7) (b : Byte) (s : State) : (patternWrite j b s).seq = s.seq := rfl
@[simp] theorem patternWrite_gdc (j : BitVec 7) (b : Byte) (s : State) : (patternWrite j b s).gdc = s.gdc := rfl
@[simp] theorem patternWrite_crtcIdx (j : BitVec 7) (b : Byte) (s : State) :
    (patternWrite j b s).crtcIdx = s.crtcIdx := rfl
@[simp] theorem patternWrite_seqIdx (j : BitVec 7) (b : Byte) (s : State) :
    (patternWrite j b s).seqIdx = s.seqIdx := rfl
@[simp] theorem patternWrite_gdcIdx (j : BitVec 7) (b : Byte) (s : State) :
    (patternWrite j b s).gdcIdx = s.gdcIdx := rfl
@[simp] theorem patternWrite_wbankReg (j : BitVec 7) (b : Byte) (s : State) :
    (patternWrite j b s).wbankReg = s.wbankReg := rfl
@[simp] theorem patternWrite_rbankReg (j : BitVec 7) (b : Byte) (s : State) :
    (patternWrite j b s).rbankReg = s.rbankReg := rfl
@[simp] theorem patternWrite_pciMemEn (j : BitVec 7) (b : Byte) (s : State) :
    (patternWrite j b s).pciMemEn = s.pciMemEn := rfl
@[simp] theorem patternWrite_linearBase (j : BitVec 7) (b : Byte) (s : State) :
    (patternWrite j b s).linearBase = s.linearBase := rfl
@[simp] theorem patternWrite_mmioBase (j : BitVec 7) (b : Byte) (s : State) :
    (patternWrite j b s).mmioBase = s.mmioBase := rfl
@[simp] theorem patternWrite_latch (j : BitVec 7) (b : Byte) (s : State) : (patternWrite j b s).latch = s.latch := rfl
@[simp] theorem patternWrite_vram (j : BitVec 7) (b : Byte) (s : State) : (patternWrite j b s).vram = s.vram := rfl
@[simp] theorem patternWrite_dirty (j : BitVec 7) (b : Byte) (s : State) : (patternWrite j b s).dirty = s.dirty := rfl
@[simp] theorem patternWrite_eng (j : BitVec 7) (b : Byte) (s : State) : (patternWrite j b s).eng = s.eng := rfl
@[simp] theorem patternWrite_irq (j : BitVec 7) (b : Byte) (s : State) : (patternWrite j b s).irq = s.irq := rfl
@[simp] theorem patternWrite_recalcs (j : BitVec 7) (b : Byte) (s : State) :
    (patternWrite j b s).recalcs = s.recalcs := rfl
@[simp] theorem patternWrite_readData (j : BitVec 7) (b : Byte) (s : State) :
    (patternWrite j b s).readData = s.readData := rfl
@[simp] theorem patternWrite_draws (j : BitVec 7) (b : Byte) (s : State) : (patternWrite j b s).draws = s.draws := rfl
@[simp] theorem patternWrite_pending (j : BitVec 7) (b : Byte) (s : State) :
    (patternWrite j b s).pending = s.pending := rfl

/-! ## crtcStore -/

@[simp] theorem crtcStore_cfg (b : Byte) (s : State) : (crtcStore b s).cfg = s.cfg := rfl
@[simp] theorem crtcStore_command (b : Byte) (s : State) : (crtcStore b s).command = s.command := rfl
@[simp] theorem crtcStore_rop (b : Byte) (s : State) : (crtcStore b s).rop = s.rop := rfl
@[simp] theorem crtcStore_useSrc (b : Byte) (s : State) : (crtcStore b s).useSrc = s.useSrc := rfl
@[simp] theorem crtcStore_flags (b : Byte) (s : State) : (crtcStore b s).flags = s.flags := rfl
@[simp] theorem crtcStore_fgCol (b : Byte) (s : State) : (crtcStore b s).fgCol = s.fgCol := rfl
@[simp] theorem crtcStore_bgCol (b : Byte) (s : State) : (crtcStore b s).bgCol = s.bgCol := rfl
@[simp] theorem crtcStore_ckey (b : Byte) (s : State) : (crtcStore b s).ckey = s.ckey := rfl
@[simp] theorem crtcStore_style (b : Byte) (s : State) : (crtcStore b s).style = s.style := rfl
@[simp] theorem crtcStore_dstX (b : Byte) (s : State) : (crtcStore b s).dstX = s.dstX := rfl
@[simp] theorem crtcStore_dstY (b : Byte) (s : State) : (crtcStore b s).dstY = s.dstY := rfl
@[simp] theorem crtcStore_srcX (b : Byte) (s : State) : (crtcStore b s).srcX = s.srcX := rfl
@[simp] theorem crtcStore_srcY (b : Byte) (s : State) : (crtcStore b s).srcY = s.srcY := rfl
@[simp] theorem crtcStore_sizeX (b : Byte) (s : State) : (crtcStore b s).sizeX = s.sizeX := rfl
@[simp] theorem crtcStore_sizeY (b : Byte) (s : State) : (crtcStore b s).sizeY = s.sizeY := rfl
@[simp] theorem crtcStore_clipLeft (b : Byte) (s : State) : (crtcStore b s).clipLeft = s.clipLeft := rfl
@[simp] theorem crtcStore_clipTop (b : Byte) (s : State) : (crtcStore b s).clipTop = s.clipTop := rfl
@[simp] theorem crtcStore_clipRight (b : Byte) (s : State) : (crtcStore b s).clipRight = s.clipRight := rfl
@[simp] theorem crtcStore_clipBottom (b : Byte) (s : State) : (crtcStore b s).clipBottom = s.clipBottom := rfl
@[simp] theorem crtcStore_pattern (b : Byte) (s : State) : (crtcStore b s).pattern = s.pattern := rfl
@[simp] theorem crtcStore_pattern32 (b : Byte) (s : State) : (crtcStore b s).pattern32 = s.pattern32 := rfl
@[simp] theorem crtcStore_pat32Idx (b : Byte) (s : State) : (crtcStore b s).pat32Idx = s.pat32Idx := rfl
@[simp] theorem crtcStore_accelBpp (b : Byte) (s : State) : (crtcStore b s).accelBpp = s.accelBpp := rfl
@[simp] theorem crtcStore_rowOffset (b : Byte) (s : State) : (crtcStore b s).rowOffset = s.rowOffset := rfl
@[simp] theorem crtcStore_crtc (b : Byte) (s : State) :
    (crtcStore b s).crtc = s.crtc.set s.crtcIdx.toNat b s.crtcIdx.isLt := rfl
@[simp] theorem crtcStore_seq (b : Byte) (s : State) : (crtcStore b s).seq = s.seq := rfl
@[simp] theorem crtcStore_gdc (b : Byte) (s : State) : (crtcStore b s).gdc = s.gdc := rfl
@[simp] theorem crtcStore_crtcIdx (b : Byte) (s : State) : (crtcStore b s).crtcIdx = s.crtcIdx := rfl
@[simp] theorem crtcStore_seqIdx (b : Byte) (s : State) : (crtcStore b s).seqIdx = s.seqIdx := rfl
@[simp] theorem crtcStore_gdcIdx (b : Byte) (s : State) : (crtcStore b s).gdcIdx = s.gdcIdx := rfl
@[simp] theorem crtcStore_wbankReg (b : Byte) (s : State) : (crtcStore b s).wbankReg = s.wbankReg := rfl
@[simp] theorem crtcStore_rbankReg (b : Byte) (s : State) : (crtcStore b s).rbankReg = s.rbankReg := rfl
@[simp] theorem crtcStore_pciMemEn (b : Byte) (s : State) : (crtcStore b s).pciMemEn = s.pciMemEn := rfl
@[simp] theorem crtcStore_linearBase (b : Byte) (s : State) : (crtcStore b s).linearBase = s.linearBase := rfl
@[simp] theorem crtcStore_mmioBase (b : Byte) (s : State) : (crtcStore b s).mmioBase = s.mmioBase := rfl
@[simp] theorem crtcStore_latch (b : Byte) (s : State) : (crtcStore b s).latch = s.latch := rfl
@[simp] theorem crtcStore_vram (b : Byte) (s : State) : (crtcStore b s).vram = s.vram := rfl
@[simp] theorem crtcStore_dirty (b : Byte) (s : State) : (crtcStore b s).dirty = s.dirty := rfl
@[simp] theorem crtcStore_eng (b : Byte) (s : State) : (crtcStore b s).eng = s.eng := rfl
@[simp] theorem crtcStore_irq (b : Byte) (s : State) : (crtcStore b s).irq = s.irq := rfl
@[simp] theorem crtcStore_recalcs (b : Byte) (s : State) :
    (crtcStore b s).recalcs = if inTimingIndices s.cfg s.crtcIdx then s.recalcs + 1 else s.recalcs := rfl
@[simp] theorem crtcStore_readData (b : Byte) (s : State) : (crtcStore b s).readData = s.readData := rfl
@[simp] theorem crtcStore_draws (b : Byte) (s : State) : (crtcStore b s).draws = s.draws := rfl
@[simp] theorem crtcStore_pending (b : Byte) (s : State) : (crtcStore b s).pending = s.pending := rfl

/-! ## seqStore -/

@[simp] theorem seqStore_cfg (b : Byte) (s : State) : (seqStore b s).cfg = s.cfg := rfl
@[simp] theorem seqStore_command (b : Byte) (s : State) : (seqStore b s).command = s.command := rfl
@[simp] theorem seqStore_rop (b : Byte) (s : State) : (seqStore b s).rop = s.rop := rfl
@[simp] theorem seqStore_useSrc (b : Byte) (s : State) : (seqStore b s).useSrc = s.useSrc := rfl
@[simp] theorem seqStore_flags (b : Byte) (s : State) : (seqStore b s).flags = s.flags := rfl
@[simp] theorem seqStore_fgCol (b : Byte) (s : State) : (seqStore b s).fgCol = s.fgCol := rfl
@[simp] theorem seqStore_bgCol (b : Byte) (s : State) : (seqStore b s).bgCol = s.bgCol := rfl
@[simp] theorem seqStore_ckey (b : Byte) (s : State) : (seqStore b s).ckey = s.ckey := rfl
@[simp] theorem seqStore_style (b : Byte) (s : State) : (seqStore b s).style = s.style := rfl
@[simp] theorem seqStore_dstX (b : Byte) (s : State) : (seqStore b s).dstX = s.dstX := rfl
@[simp] theorem seqStore_dstY (b : Byte) (s : State) : (seqStore b s).dstY = s.dstY := rfl
@[simp] theorem seqStore_srcX (b : Byte) (s : State) : (seqStore b s).srcX = s.srcX := rfl
@[simp] theorem seqStore_srcY (b : Byte) (s : State) : (seqStore b s).srcY = s.srcY := rfl
@[simp] theorem seqStore_sizeX (b : Byte) (s : State) : (seqStore b s).sizeX = s.sizeX := rfl
@[simp] theorem seqStore_sizeY (b : Byte) (s : State) : (seqStore b s).sizeY = s.sizeY := rfl
@[simp] theorem seqStore_clipLeft (b : Byte) (s : State) : (seqStore b s).clipLeft = s.clipLeft := rfl
@[simp] theorem seqStore_clipTop (b : Byte) (s : State) : (seqStore b s).clipTop = s.clipTop := rfl
@[simp] theorem seqStore_clipRight (b : Byte) (s : State) : (seqStore b s).clipRight = s.clipRight := rfl
@[simp] theorem seqStore_clipBottom (b : Byte) (s : State) : (seqStore b s).clipBottom = s.clipBottom := rfl
@[simp] theorem seqStore_pattern (b : Byte) (s : State) : (seqStore b s).pattern = s.pattern := rfl
@[simp] theorem seqStore_pattern32 (b : Byte) (s : State) : (seqStore b s).pattern32 = s.pattern32 := rfl
@[simp] theorem seqStore_pat32Idx (b : Byte) (s : State) : (seqStore b s).pat32Idx = s.pat32Idx := rfl
@[simp] theorem seqStore_accelBpp (b : Byte) (s : State) : (seqStore b s).accelBpp = s.accelBpp := rfl
@[simp] theorem seqStore_rowOffset (b : Byte) (s : State) : (seqStore b s).rowOffset = s.rowOffset := rfl
@[simp] theorem seqStore_crtc (b : Byte) (s : State) : (seqStore b s).crtc = s.crtc := rfl
@[simp] theorem seqStore_seq (b : Byte) (s : State) :
    (seqStore b s).seq = s.seq.set s.seqIdx.toNat b s.seqIdx.isLt := rfl
@[simp] theorem seqStore_gdc (b : Byte) (s : State) : (seqStore b s).gdc = s.gdc := rfl
@[simp] theorem seqStore_crtcIdx (b : Byte) (s : State) : (seqStore b s).crtcIdx = s.crtcIdx := rfl
@[simp] theorem seqStore_seqIdx (b : Byte) (s : State) : (seqStore b s).seqIdx = s.seqIdx := rfl
@[simp] theorem seqStore_gdcIdx (b : Byte) (s : State) : (seqStore b s).gdcIdx = s.gdcIdx := rfl
@[simp] theorem seqStore_wbankReg (b : Byte) (s : State) : (seqStore b s).wbankReg = s.wbankReg := rfl
@[simp] theorem seqStore_rbankReg (b : Byte) (s : State) : (seqStore b s).rbankReg = s.rbankReg := rfl
@[simp] theorem seqStore_pciMemEn (b : Byte) (s : State) : (seqStore b s).pciMemEn = s.pciMemEn := rfl
@[simp] theorem seqStore_linearBase (b : Byte) (s : State) : (seqStore b s).linearBase = s.linearBase := rfl
@[simp] theorem seqStore_mmioBase (b : Byte) (s : State) : (seqStore b s).mmioBase = s.mmioBase := rfl
@[simp] theorem seqStore_latch (b : Byte) (s : State) : (seqStore b s).latch = s.latch := rfl
@[simp] theorem seqStore_vram (b : Byte) (s : State) : (seqStore b s).vram = s.vram := rfl
@[simp] theorem seqStore_dirty (b : Byte) (s : State) : (seqStore b s).dirty = s.dirty := rfl
@[simp] theorem seqStore_eng (b : Byte) (s : State) : (seqStore b s).eng = s.eng := rfl
@[simp] theorem seqStore_irq (b : Byte) (s : State) : (seqStore b s).irq = s.irq := rfl
@[simp] theorem seqStore_recalcs (b : Byte) (s : State) : (seqStore b s).recalcs = s.recalcs := rfl
@[simp] theorem seqStore_readData (b : Byte) (s : State) : (seqStore b s).readData = s.readData := rfl
@[simp] theorem seqStore_draws (b : Byte) (s : State) : (seqStore b s).draws = s.draws := rfl
@[simp] theorem seqStore_pending (b : Byte) (s : State) : (seqStore b s).pending = s.pending := rfl

/-! ## gdcStore -/

@[simp] theorem gdcStore_cfg (b : Byte) (s : State) : (gdcStore b s).cfg = s.cfg := rfl
@[simp] theorem gdcStore_command (b : Byte) (s : State) : (gdcStore b s).command = s.command := rfl
@[simp] theorem gdcStore_rop (b : Byte) (s : State) : (gdcStore b s).rop = s.rop := rfl
@[simp] theorem gdcStore_useSrc (b : Byte) (s : State) : (gdcStore b s).useSrc = s.useSrc := rfl
@[simp] theorem gdcStore_flags (b : Byte) (s : State) : (gdcStore b s).flags = s.flags := rfl
@[simp] theorem gdcStore_fgCol (b : Byte) (s : State) : (gdcStore b s).fgCol = s.fgCol := rfl
@[simp] theorem gdcStore_bgCol (b : Byte) (s : State) : (gdcStore b s).bgCol = s.bgCol := rfl
@[simp] theorem gdcStore_ckey (b : Byte) (s : State) : (gdcStore b s).ckey = s.ckey := rfl
@[simp] theorem gdcStore_style (b : Byte) (s : State) : (gdcStore b s).style = s.style := rfl
@[simp] theorem gdcStore_dstX (b : Byte) (s : State) : (gdcStore b s).dstX = s.dstX := rfl
@[simp] theorem gdcStore_dstY (b : Byte) (s : State) : (gdcStore b s).dstY = s.dstY := rfl
@[simp] theorem gdcStore_srcX (b : Byte) (s : State) : (gdcStore b s).srcX = s.srcX := rfl
@[simp] theorem gdcStore_srcY (b : Byte) (s : State) : (gdcStore b s).srcY = s.srcY := rfl
@[simp] theorem gdcStore_sizeX (b : Byte) (s : State) : (gdcStore b s).sizeX = s.sizeX := rfl
@[simp] theorem gdcStore_sizeY (b : Byte) (s : State) : (gdcStore b s).sizeY = s.sizeY := rfl
@[simp] theorem gdcStore_clipLeft (b : Byte) (s : State) : (gdcStore b s).clipLeft = s.clipLeft := rfl
@[simp] theorem gdcStore_clipTop (b : Byte) (s : State) : (gdcStore b s).clipTop = s.clipTop := rfl
@[simp] theorem gdcStore_clipRight (b : Byte) (s : State) : (gdcStore b s).clipRight = s.clipRight := rfl
@[simp] theorem gdcStore_clipBottom (b : Byte) (s : State) : (gdcStore b s).clipBottom = s.clipBottom := rfl
@[simp] theorem gdcStore_pattern (b : Byte) (s : State) : (gdcStore b s).pattern = s.pattern := rfl
@[simp] theorem gdcStore_pattern32 (b : Byte) (s : State) : (gdcStore b s).pattern32 = s.pattern32 := rfl
@[simp] theorem gdcStore_pat32Idx (b : Byte) (s : State) : (gdcStore b s).pat32Idx = s.pat32Idx := rfl
@[simp] theorem gdcStore_accelBpp (b : Byte) (s : State) : (gdcStore b s).accelBpp = s.accelBpp := rfl
@[simp] theorem gdcStore_rowOffset (b : Byte) (s : State) : (gdcStore b s).rowOffset = s.rowOffset := rfl
@[simp] theorem gdcStore_crtc (b : Byte) (s : State) : (gdcStore b s).crtc = s.crtc := rfl
@[simp] theorem gdcStore_seq (b : Byte) (s : State) : (gdcStore b s).seq = s.seq := rfl
@[simp] theorem gdcStore_gdc (b : Byte) (s : State) :
    (gdcStore b s).gdc = s.gdc.set s.gdcIdx.toNat b s.gdcIdx.isLt := rfl
@[simp] theorem gdcStore_crtcIdx (b : Byte) (s : State) : (gdcStore b s).crtcIdx = s.crtcIdx := rfl
@[simp] theorem gdcStore_seqIdx (b : Byte) (s : State) : (gdcStore b s).seqIdx = s.seqIdx := rfl
@[simp] theorem gdcStore_gdcIdx (b : Byte) (s : State) : (gdcStore b s).gdcIdx = s.gdcIdx := rfl
@[simp] theorem gdcStore_wbankReg (b : Byte) (s : State) : (gdcStore b s).wbankReg = s.wbankReg := rfl
@[simp] theorem gdcStore_rbankReg (b : Byte) (s : State) : (gdcStore b s).rbankReg = s.rbankReg := rfl
@[simp] theorem gdcStore_pciMemEn (b : Byte) (s : State) : (gdcStore b s).pciMemEn = s.pciMemEn := rfl
@[simp] theorem gdcStore_linearBase (b : Byte) (s : State) : (gdcStore b s).linearBase = s.linearBase := rfl
@[simp] theorem gdcStore_mmioBase (b : Byte) (s : State) : (gdcStore b s).mmioBase = s.mmioBase := rfl
@[simp] theorem gdcStore_latch (b : Byte) (s : State) : (gdcStore b s).latch = s.latch := rfl
@[simp] theorem gdcStore_vram (b : Byte) (s : State) : (gdcStore b s).vram = s.vram := rfl
@[simp] theorem gdcStore_dirty (b : Byte) (s : State) : (gdcStore b s).dirty = s.dirty := rfl
@[simp] theorem gdcStore_eng (b : Byte) (s : State) : (gdcStore b s).eng = s.eng := rfl
@[simp] theorem gdcStore_irq (b : Byte) (s : State) : (gdcStore b s).irq = s.irq := rfl
@[simp] theorem gdcStore_recalcs (b : Byte) (s : State) : (gdcStore b s).recalcs = s.recalcs := rfl
@[simp] theorem gdcStore_readData (b : Byte) (s : State) : (gdcStore b s).readData = s.readData := rfl
@[simp] theorem gdcStore_draws (b : Byte) (s : State) : (gdcStore b s).draws = s.draws := rfl
@[simp] theorem gdcStore_pending (b : Byte) (s : State) : (gdcStore b s).pending = s.pending := rfl

end Sys2Proof.Machine
end

