-- ==== Sys2Proof/Laws/Engine.lean ====
section
/-!
SUPPORT. What the engine's operations can do: every drawing operation is a sequence of pixel writes, so a property that
pixel writes keep is kept by every command and feed; and what `advance` does to the cursors.
-/

namespace Sys2Proof.Machine

/-- Two states that differ at most in video memory and the dirty bitmap. -/
def PixelsOnly (s t : State) : Prop := t = { s with vram := t.vram, dirty := t.dirty }

theorem PixelsOnly.refl (s : State) : PixelsOnly s s := rfl

theorem PixelsOnly.trans {s t u : State} (h : PixelsOnly s t) (k : PixelsOnly t u) : PixelsOnly s u := by
  rw [PixelsOnly] at *
  rw [k, h]

theorem writePixel_pixelsOnly (s : State) (off v : Word) : PixelsOnly s (writePixel s off v) := rfl

/-! ## Properties that pixel writes keep -/

/-- A property of states that every pixel write keeps. -/
def KeptByPixels (P : State → Prop) : Prop := ∀ s off v, P s → P (writePixel s off v)

theorem compose_keeps {P : State → Prop} (hP : KeptByPixels P) (c : Cont) (off pat src : Word) {s : State} (h : P s) :
    P (compose c off pat src s) := hP s off _ h

theorem drawPixel_keeps {P : State → Prop} (hP : KeptByPixels P) (src : Word) (c : Cont) {s : State} (h : P s) :
    P (drawPixel src c s) := by
  unfold drawPixel
  split
  · exact compose_keeps hP c _ _ _ h
  · exact h

theorem scanlinePixel_keeps {P : State → Prop} (hP : KeptByPixels P) (c : Cont) {s : State} (h : P s) :
    P (scanlinePixel c s) := by
  unfold scanlinePixel
  split
  · exact compose_keeps hP c _ _ _ h
  · exact h

theorem plot_keeps {P : State → Prop} (hP : KeptByPixels P) (c : Cont) (px py : Word) {s : State} (h : P s) :
    P (plot c px py s) := by
  unfold plot
  split
  · exact compose_keeps hP c _ _ _ h
  · exact h

theorem bltLoop_keeps {P : State → Prop} (hP : KeptByPixels P) (source : State → Cont → Word) (n : Nat) (c : Cont)
    {s : State} (h : P s) : P (bltLoop source n c s) := by
  induction n generalizing c s with
  | zero => exact h
  | succ n ih =>
    unfold bltLoop
    split
    · exact drawPixel_keeps hP _ c h
    · exact ih _ (drawPixel_keeps hP _ c h)

theorem scanlineLoop_keeps {P : State → Prop} (hP : KeptByPixels P) (n : Nat) (c : Cont) {s : State} (h : P s) :
    P (scanlineLoop n c s) := by
  induction n generalizing c s with
  | zero => exact h
  | succ n ih =>
    unfold scanlineLoop
    split
    · exact scanlinePixel_keeps hP c h
    · exact ih _ (scanlinePixel_keeps hP c h)

theorem lineLoop_keeps {P : State → Prop} (hP : KeptByPixels P) (c : Cont) (step : LineCursor → LineCursor) (n : Nat)
    (p : LineCursor) {s : State} (h : P s) : P (lineLoop c step n p s) := by
  induction n generalizing p s with
  | zero => exact h
  | succ n ih =>
    unfold lineLoop
    split
    · exact plot_keeps hP c _ _ h
    · exact ih _ (plot_keeps hP c _ _ h)

theorem feedPixels_keeps {P : State → Prop} (hP : KeptByPixels P) (ps : List Word) (c : Cont) {s : State} (h : P s) :
    P (feedPixels ps c s).1 := by
  induction ps generalizing c s with
  | nil => exact h
  | cons p ps ih =>
    unfold feedPixels
    split
    · exact drawPixel_keeps hP p c h
    · exact ih _ (drawPixel_keeps hP p c h)

theorem feedByte_keeps {P : State → Prop} (hP : KeptByPixels P) (b : Byte) (c : Cont) {s : State} (h : P s) :
    P (feedByte b c s).1 := by
  unfold feedByte
  split
  · exact feedPixels_keeps hP _ c h
  · exact feedPixels_keeps hP _ _ h

theorem feedBytes_keeps {P : State → Prop} (hP : KeptByPixels P) (bs : List Byte) (c : Cont) {s : State} (h : P s) :
    P (feedBytes bs c s).1 := by
  induction bs generalizing c s with
  | nil => exact h
  | cons b bs ih =>
    have hb := feedByte_keeps hP b c h
    unfold feedBytes
    split <;> rename_i heq <;> rw [heq] at hb
    · exact hb
    · exact ih _ hb

theorem pixelsOnly_kept (s : State) : KeptByPixels (PixelsOnly s) := fun t off v h =>
  h.trans (writePixel_pixelsOnly t off v)

/-- A property of states that pixel writes keep, that a suspension keeps and that an accepted command has, holds after
every command. -/
theorem startCommand_keeps {P : State → Prop} (hP : KeptByPixels P) {s : State} (h : P s)
    (hA : P (bitbltAwait (snapshot s) s)) : P (startCommand s) := by
  unfold startCommand bitbltStart
  split
  · split
    · exact bltLoop_keeps hP _ _ _ h
    · split
      · exact bltLoop_keeps hP _ _ _ h
      · split
        · exact bltLoop_keeps hP _ _ _ h
        · exact hA
  · split
    · exact scanlineLoop_keeps hP _ _ h
    · split
      · exact lineLoop_keeps hP _ _ _ _ h
      · split
        · exact lineLoop_keeps hP _ _ _ _ h
        · split
          · split
            · exact lineLoop_keeps hP _ _ _ _ h
            · exact h
          · exact h

/-! ## Cursors -/

theorem sint16_toInt (v : Half) : (sint16 v).toInt = v.toInt := BitVec.toInt_signExtend_of_le (by omega)

/-- The extent of a size is at most 32767. -/
theorem extent_lt (v : Half) : extent v < 2 ^ 15 := by
  have := BitVec.toInt_lt (x := v)
  unfold extent
  omega

/-- The loop test on a counter that has not passed the size by more than one (R216). -/
theorem beyond_ofNat {n : Nat} (v : Half) (hn : n ≤ extent v + 1) (h0 : 0 < n) :
    beyond (BitVec.ofNat 32 n) v = decide (extent v < n) := by
  have hb := extent_lt v
  have hi : (BitVec.ofNat 32 n).toInt = n := by
    rw [BitVec.toInt_eq_toNat_of_lt] <;> rw [BitVec.toNat_ofNat, Nat.mod_eq_of_lt] <;> omega
  have hv : v.toInt ≤ (extent v : Int) := by unfold extent; omega
  have he : (extent v : Int) ≤ max v.toInt 0 := by unfold extent; omega
  rw [beyond, Bool.eq_iff_iff, BitVec.slt_iff_toInt_lt, sint16_toInt, hi, decide_eq_true_iff]
  omega

theorem ofNat_succ_mul (n : Nat) (w : Word) : BitVec.ofNat 32 (n + 1) * w = BitVec.ofNat 32 n * w + w := by
  rw [BitVec.ofNat_add, BitVec.add_mul]
  exact congrArg _ (BitVec.one_mul w)

theorem stepX_contAt (c : Cont) (i j : Nat) : stepX (contAt c i j) = contAt c (i + 1) j := by
  simp only [stepX, contAt, ofNat_succ_mul, BitVec.add_assoc]
  rw [BitVec.ofNat_add]
  rfl

theorem nextRow_contAt (c : Cont) (i j : Nat) : nextRow (contAt c i j) = contAt c 0 (j + 1) := by
  simp only [nextRow, contAt, ofNat_succ_mul, BitVec.add_assoc, BitVec.zero_mul, BitVec.add_zero]
  rw [BitVec.ofNat_add]
  rfl

/-- `advance` inside a fresh rectangle: along the row, then to the next row, then done (R216). -/
theorem advance_contAt (c : Cont) {i j : Nat} (hi : i ≤ extent c.sizeX) (hj : j ≤ extent c.sizeY) :
    advance (contAt c i j) =
      if i < extent c.sizeX then some (contAt c (i + 1) j)
      else if j < extent c.sizeY then some (contAt c 0 (j + 1)) else none := by
  have hx : beyond (contAt c (i + 1) j).x (contAt c i j).sizeX = decide (extent c.sizeX < i + 1) :=
    beyond_ofNat c.sizeX (by omega) (by omega)
  have hy : beyond (contAt c 0 (j + 1)).y (contAt c i j).sizeY = decide (extent c.sizeY < j + 1) :=
    beyond_ofNat c.sizeY (by omega) (by omega)
  rw [advance, stepX_contAt, nextRow_contAt, hx, hy]
  by_cases h1 : i < extent c.sizeX
  · rw [if_neg (by simp; omega), if_pos h1]
  · rw [if_pos (by simp; omega), if_neg h1]
    by_cases h2 : j < extent c.sizeY
    · rw [if_neg (by simp; omega), if_pos h2]
    · rw [if_pos (by simp; omega), if_neg h2]

/-- A counter and its successor as numbers. -/
theorem succ_ofNat (w : Word) : w + 1 = BitVec.ofNat 32 (w.toNat + 1) := by
  rw [BitVec.ofNat_add, BitVec.ofNat_toNat, BitVec.setWidth_eq]
  rfl

/-- `advance` keeps what holds of an awaiting continuation: its cursors stay inside the rectangle (R216). -/
theorem ContWf.advance {c d : Cont} (h : ContWf c) (ha : Machine.advance c = some d) : ContWf d := by
  have hx : beyond (stepX c).x c.sizeX = decide (extent c.sizeX < c.x.toNat + 1) := by
    show beyond (c.x + 1) c.sizeX = _
    rw [succ_ofNat]
    exact beyond_ofNat _ (Nat.succ_le_succ h.xRange) (by omega)
  have hy : beyond (nextRow (stepX c)).y c.sizeY = decide (extent c.sizeY < c.y.toNat + 1) := by
    show beyond (c.y + 1) c.sizeY = _
    rw [succ_ofNat]
    exact beyond_ofNat _ (Nat.succ_le_succ h.yRange) (by omega)
  have ex := extent_lt c.sizeX
  have ey := extent_lt c.sizeY
  have small : ∀ {w : Word} {n : Nat}, n < 2 ^ 15 → w.toNat + 1 ≤ n → (w + 1).toNat ≤ n := by
    intro w n hn hw
    rw [succ_ofNat, BitVec.toNat_ofNat, Nat.mod_eq_of_lt (by omega)]
    exact hw
  rw [Machine.advance, hx, hy] at ha
  by_cases h3 : extent c.sizeX < c.x.toNat + 1
  · rw [if_pos (by simpa using h3)] at ha
    by_cases h4 : extent c.sizeY < c.y.toNat + 1
    · rw [if_pos (by simpa using h4)] at ha
      cases ha
    · rw [if_neg (by simpa using h4)] at ha
      cases ha
      exact ⟨h.cpuSource, h.ropReads, by simp [nextRow], small ey (Nat.le_of_not_lt h4), h.residualShort⟩
  · rw [if_neg (by simpa using h3)] at ha
    cases ha
    exact ⟨h.cpuSource, h.ropReads, small ex (Nat.le_of_not_lt h3), h.yRange, h.residualShort⟩

/-- After taking every whole pixel, fewer bytes are left than a pixel needs (R220). -/
theorem takePixels_short {e : Nat} (he : 0 < e) (fuel : Nat) (r : List Byte) (hf : r.length ≤ fuel) :
    (takePixels e fuel r).2.length < e := by
  induction fuel generalizing r with
  | zero =>
    rw [takePixels]
    show r.length < e
    omega
  | succ n ih =>
    unfold takePixels
    split
    · exact ih _ (by simp; omega)
    · rename_i h
      exact Nat.lt_of_not_le h

/-- A continuation at its start is the first pixel of its own rectangle. -/
theorem contAt_zero {c : Cont} (hx : c.x = 0) (hy : c.y = 0) (hs : c.rowSrc = c.srcOff) (hd : c.rowDst = c.dstOff)
    (h0 : c.dx = c.x0) : contAt c 0 0 = c := by
  cases c
  simp_all [contAt]

theorem contAt_snapshot (s : State) : contAt (snapshot s) 0 0 = snapshot s := contAt_zero rfl rfl rfl rfl rfl

end Sys2Proof.Machine
end

