-- ==== Sys2Proof/Laws/Operations.lean ====
section
/-!
SUPPORT. What each shared operation can do, said once: pixel writes, register bytes, ports, host memory, the feed and a
step.
-/

namespace Sys2Proof.Machine

/-! ## Pixels -/

/-- Every address after a pixel write: the element's bytes are the value's, every other byte is as before (R64). -/
theorem writePixel_read {s : State} (h : Memory.wf s.vram) (off v : Word) (x : Nat) :
    (writePixel s off v).vram.read x =
      if elemAddr s off ≤ x ∧ x < elemAddr s off + s.accelBpp.bytes then byteAt v (x - elemAddr s off)
      else s.vram.read x := by
  show Memory.read (Memory.writeBytes s.vram _ _) x = _
  rw [Memory.read_writeBytes h, bytesOf_length]
  split
  · rw [bytesOf_getD v (by omega)]
  · rfl

/-- Bytes stored at consecutive addresses read back in order. -/
theorem Memory.readBytes_writeBytes {m : Memory} (h : Memory.wf m) (a : Nat) (bs : List Byte) :
    Memory.readBytes (Memory.writeBytes m a bs) a bs.length = bs := by
  apply List.ext_getElem (by simp [Memory.readBytes])
  intro k h1 h2
  simp only [Memory.readBytes, List.getElem_map, List.getElem_range, Memory.read_writeBytes h]
  rw [if_pos ⟨by omega, by omega⟩, Nat.add_sub_cancel_left]
  simp [h2]

/-- The element just written reads as the value's low bits (R63, R64). -/
theorem readPixel_writePixel {s : State} (h : Memory.wf s.vram) (off v : Word) :
    readPixel (writePixel s off v) off = s.accelBpp.trunc v := by
  rw [← trunc_eq_wordOfBytes]
  show wordOfBytes (Memory.readBytes (Memory.writeBytes s.vram _ _) (elemAddr s off) s.accelBpp.bytes) = _
  have := Memory.readBytes_writeBytes h (elemAddr s off) (bytesOf s.accelBpp.bytes v)
  rw [bytesOf_length] at this
  rw [this]

/-- The canonical form of video memory is a property pixel writes keep. -/
theorem vramWf_kept : KeptByPixels (fun s => Memory.wf s.vram) := fun _ _ _ h => Memory.wf_writeBytes h _ _

/-! ## Register bytes -/

/-- A window byte is the command register's, or it leaves the engine, video memory, the banks, the bus fields and the
model's own fields alone. -/
theorem regWriteByte_cases (o b : Byte) (s : State) :
    windowReg o = .command ∧ regWriteByte o b s = commandWrite b s ∨
    regWriteByte o b s =
      { regWriteByte o b s with
        cfg := s.cfg, command := s.command, crtc := s.crtc, seq := s.seq, gdc := s.gdc, crtcIdx := s.crtcIdx,
        seqIdx := s.seqIdx, gdcIdx := s.gdcIdx, wbankReg := s.wbankReg, rbankReg := s.rbankReg,
        pciMemEn := s.pciMemEn, linearBase := s.linearBase, mmioBase := s.mmioBase, latch := s.latch, vram := s.vram,
        dirty := s.dirty, eng := s.eng, irq := s.irq, recalcs := s.recalcs, readData := s.readData, draws := s.draws,
        pending := s.pending, accelBpp := s.accelBpp, rowOffset := s.rowOffset } := by
  unfold regWriteByte
  cases windowReg o <;> first | exact .inl ⟨rfl, rfl⟩ | exact .inr rfl

/-- A port byte changes at most the banks, their indices, the bank registers and the count of timing calls. -/
theorem vgaWriteByte_frame (p : VgaPort) (b : Byte) (s : State) :
    vgaWriteByte p b s =
      { s with
        crtc := (vgaWriteByte p b s).crtc, seq := (vgaWriteByte p b s).seq, gdc := (vgaWriteByte p b s).gdc,
        crtcIdx := (vgaWriteByte p b s).crtcIdx, seqIdx := (vgaWriteByte p b s).seqIdx,
        gdcIdx := (vgaWriteByte p b s).gdcIdx, wbankReg := (vgaWriteByte p b s).wbankReg,
        rbankReg := (vgaWriteByte p b s).rbankReg, recalcs := (vgaWriteByte p b s).recalcs } := by
  cases p <;> rfl

/-- A property that window bytes and port bytes keep is kept by every I/O write. -/
theorem ioWriteBytes_keeps {P : State → Prop} (hR : ∀ o b s, P s → P (regWriteByte o b s))
    (hV : ∀ p b s, P s → P (vgaWriteByte p b s)) (q : Half) (bs : List Byte) {s : State} (h : P s) :
    P (ioWriteBytes q bs s) := by
  induction bs generalizing q s with
  | nil => exact h
  | cons b bs ih =>
    refine ih (q + 1) ?_
    unfold ioWriteByte
    split
    · exact hR _ _ _ h
    · split
      · exact hV _ _ _ h
      · exact h

theorem ioWrite_keeps {P : State → Prop} (hR : ∀ o b s, P s → P (regWriteByte o b s))
    (hV : ∀ p b s, P s → P (vgaWriteByte p b s)) (hC : ∀ v s, P s → P (commandRopWrite v s)) (q : Half) (n : Width)
    (v : Word) {s : State} (h : P s) : P (ioWrite q n v s) := by
  unfold ioWrite
  split
  · exact hC _ _ h
  · exact ioWriteBytes_keeps hR hV q _ h

/-! ## Host memory -/

theorem vramSize_pos (z : VramSize) : 0 < z.bytes := by cases z <;> decide

/-- A masked byte index lies inside video memory (R9). -/
theorem masked_lt (cfg : Config) (w : Word) : (w &&& vramMask cfg).toNat < cfg.vramSize.bytes := by
  have h1 : (vramMask cfg).toNat < cfg.vramSize.bytes := by
    unfold vramMask
    cases cfg.vramSize <;> decide
  have h2 : (w &&& vramMask cfg).toNat ≤ (vramMask cfg).toNat := by
    rw [BitVec.toNat_and]
    exact Nat.and_le_right
  omega

/-- A property that bytes stored inside video memory keep is kept by the cells of a Gen0 function. -/
theorem vramWriteCells_keeps {P : State → Prop} (hM : ∀ s a b, a < s.cfg.vramSize.bytes → P s → P (vramWrite s a b))
    (cs : List Host.Cell) {s : State} (h : P s) : P (vramWriteCells s cs) := by
  unfold vramWriteCells
  suffices key : ∀ (cs : List Host.Cell) (u : State), u.cfg = s.cfg → P u →
      P (cs.foldl (fun t c => vramWrite t (c.1 % s.cfg.vramSize.bytes) c.2) u) from key cs s rfl h
  intro cs
  induction cs with
  | nil => exact fun _ _ hu => hu
  | cons c cs ih =>
    exact fun u hc hu => ih _ hc (hM _ _ _ (hc ▸ Nat.mod_lt _ (vramSize_pos _)) hu)

/-- A property that bytes stored inside video memory keep is kept by a framebuffer byte that is not refused. -/
theorem fbWrite_keeps {P : State → Prop} (hM : ∀ s a b, a < s.cfg.vramSize.bytes → P s → P (vramWrite s a b))
    {i : Nat} {b : Byte} {s t : State} (hi : i < s.cfg.vramSize.bytes) (h : P s) (ht : fbWrite i b s = .ok t) : P t := by
  unfold fbWrite at ht
  split at ht
  · cases ht; exact hM _ _ _ hi h
  · split at ht
    · cases ht; exact vramWriteCells_keeps hM _ h
    · cases ht
  · split at ht
    · cases ht; exact vramWriteCells_keeps hM _ h
    · cases ht

/-- A property that video-memory bytes, window bytes and port bytes keep is kept by one byte of a host write. -/
theorem memWriteByte_keeps {P : State → Prop} (hM : ∀ s a b, a < s.cfg.vramSize.bytes → P s → P (vramWrite s a b))
    (hR : ∀ o b s, P s → P (regWriteByte o b s)) (hV : ∀ p b s, P s → P (vgaWriteByte p b s)) {a : Word} {b : Byte}
    {s t : State} (h : P s) (ht : memWriteByte a b s = .ok t) : P t := by
  unfold memWriteByte at ht
  split at ht
  · exact fbWrite_keeps hM (masked_lt _ _) h ht
  · exact fbWrite_keeps hM (masked_lt _ _) h ht
  · cases ht; exact hR _ _ _ h
  · cases ht
    unfold mmioWriteByte
    split
    · exact hR _ _ _ h
    · split
      · exact hV _ _ _ h
      · exact h
  · cases ht; exact h

theorem memWriteBytes_keeps {P : State → Prop} (hM : ∀ s a b, a < s.cfg.vramSize.bytes → P s → P (vramWrite s a b))
    (hR : ∀ o b s, P s → P (regWriteByte o b s)) (hV : ∀ p b s, P s → P (vgaWriteByte p b s)) {a : Word}
    {bs : List Byte} {s t : State} (h : P s) (ht : memWriteBytes a bs s = .ok t) : P t := by
  induction bs generalizing a s with
  | nil => cases ht; exact h
  | cons b bs ih =>
    unfold memWriteBytes at ht
    split at ht
    · exact ih (memWriteByte_keeps hM hR hV h ‹_›) ht
    · cases ht

/-- What a host memory write that is not refused does: a feed, the atomic command word, or its bytes one by one; a
property all of these keep is kept (R180). -/
theorem memWrite_keeps {P : State → Prop} (hM : ∀ s a b, a < s.cfg.vramSize.bytes → P s → P (vramWrite s a b))
    (hR : ∀ o b s, P s → P (regWriteByte o b s)) (hV : ∀ p b s, P s → P (vgaWriteByte p b s))
    (hC : ∀ v s, P s → P (commandRopWrite v s)) (hF : ∀ bs s, P s → P (feed bs s)) {a : Word} {n : Width} {v : Word}
    {s t : State} (h : P s) (ht : memWrite a n v s = .ok t) : P t := by
  unfold memWrite at ht
  split at ht
  · cases ht; exact hF _ _ h
  · split at ht
    · cases ht; exact hC _ _ h
    · exact memWriteBytes_keeps hM hR hV h ht

/-- One byte of a host read changes at most the Gen0 latch. -/
theorem memReadByte_frame {a : Word} {k : Nat} {s t : State} {b : Byte} (h : memReadByte a k s = .ok (b, t)) :
    t = { s with latch := t.latch } := by
  have hf : ∀ i, fbRead i s = .ok (b, t) → t = { s with latch := t.latch } := by
    intro i hi
    unfold fbRead at hi
    split at hi
    · cases hi; rfl
    · cases hi; rfl
    · split at hi
      · cases hi; rfl
      · cases hi
  unfold memReadByte at h
  split at h
  · exact hf _ h
  · exact hf _ h
  · cases h; rfl
  · cases h; rfl
  · cases h; rfl

theorem memReadBytes_frame {k : Nat} {a : Word} {n : Nat} {s t : State} {bs : List Byte}
    (h : memReadBytes k a n s = .ok (bs, t)) : t = { s with latch := t.latch } ∧ bs.length = n := by
  induction n generalizing k a s bs with
  | zero => cases h; exact ⟨rfl, rfl⟩
  | succ n ih =>
    unfold memReadBytes at h
    split at h
    · cases h
    · rename_i hb
      split at h
      · cases h
      · rename_i hbs
        cases h
        obtain ⟨h1, h2⟩ := ih hbs
        have h3 := memReadByte_frame hb
        exact ⟨by rw [h1, h3], by simp [h2]⟩

/-- A host read that is not refused changes at most the Gen0 latch and the model's own read fields (R72). -/
theorem memRead_frame {a : Word} {n : Width} {s t : State} (h : memRead a n s = .ok t) :
    t = { s with latch := t.latch, readData := t.readData, draws := s.draws + 1 } := by
  unfold memRead at h
  split at h
  · cases h
  · rename_i hb
    cases h
    have := (memReadBytes_frame hb).1
    rw [this]
    rfl

/-- A host memory write that is no CPU data: the command word, or its bytes one by one (R180). -/
theorem memWrite_of_notFed {s : State} {a : Word} (h : NotFed s a) (n : Width) (v : Word) :
    memWrite a n v s =
      if isCommandWord (route s a) && decide (n = .b4) then .ok (commandRopWrite v s)
      else memWriteBytes a (bytesOf n.bytes v) s := by
  have hf : (busy s && isFeedRoute s.cfg (route s a)) = false := by
    rcases h with h | h <;> simp [h]
  rw [memWrite, hf]
  rfl

/-- A byte write that is no CPU data is the byte routed on its own (R180, R183). -/
theorem memWrite_byte_of_notFed {s : State} {a : Word} (h : NotFed s a) (v : Word) :
    memWrite a .b1 v s = memWriteByte a (byteAt v 0) s := by
  have h1 : (isCommandWord (route s a) && decide (Width.b1 = .b4)) = false := Bool.and_false _
  rw [memWrite_of_notFed h, h1]
  show memWriteBytes a [byteAt v 0] s = _
  rw [memWriteBytes]
  cases memWriteByte a (byteAt v 0) s <;> rfl

/-! ## The feed -/

/-- A feed of an idle engine does nothing. -/
theorem feed_idle {s : State} (h : s.eng = .idle) (bs : List Byte) : feed bs s = s := by rw [feed, h]

/-- A feed of an awaiting engine: the pixels of the bytes, and the engine after them (R221). -/
theorem feed_awaiting {s : State} {c : Cont} (h : s.eng = .awaitSrc c) (bs : List Byte) :
    feed bs s = { (feedBytes bs c s).1 with eng := engAfter (feedBytes bs c s).2 } := by rw [feed, h]

/-- A feed changes at most video memory, the dirty bitmap and the engine state. -/
theorem feed_sameButEngine (bs : List Byte) (s : State) : SameButEngine s (feed bs s) := by
  unfold feed
  split
  · rfl
  · rename_i c _
    have h : PixelsOnly s (feedBytes bs c s).1 := feedBytes_keeps (pixelsOnly_kept s) bs c (PixelsOnly.refl s)
    unfold SameButEngine
    rw [h]

/-! ## Steps -/

/-- What a step that goes on can be: nothing pending and nothing done, or the first pending record decoded and its
instruction executed. -/
theorem step_cases {s t : State} (h : step s = .next t) :
    (s.pending = [] ∧ t = s) ∨
    ∃ tx ts i, s.pending = tx :: ts ∧ decode tx = .ok i ∧ exec i { s with pending := ts } = .next t := by
  unfold step fetchTx at h
  cases hp : s.pending with
  | nil =>
    rw [hp] at h
    exact .inl ⟨rfl, by cases h; rfl⟩
  | cons tx ts =>
    rw [hp] at h
    cases hd : decode tx with
    | ok i => simp only [hd] at h; exact .inr ⟨tx, ts, i, rfl, hd, h⟩
    | error e => simp only [hd] at h; cases h

/-- A transaction that goes on was not refused. -/
theorem outcomeOf_next {r : Except Refusal State} {t : State} (h : outcomeOf r = .next t) : r = .ok t := by
  cases r with
  | ok s => cases h; rfl
  | error e => cases h

end Sys2Proof.Machine
end

