-- ==== Sys2Proof/Tests/Slice0.lean ====
section
/-!
SUPPORT. Tests: the checks of WellFormed, the decoding of every constructor from records written out by hand, one-step
tests with the values of spec/95_test_vectors.md and of the rules' worked examples, and a state that meets the hypotheses
of each statement that has some.
-/

open Sys2Proof Sys2Proof.Machine

namespace Sys2Proof.Tests

set_option Elab.async false

/-! ## Well-formedness -/

theorem test_wellFormed_refuses_named_command : WellFormed (.nopCmd 0x01) = false := by decide
theorem test_wellFormed_refuses_wide_feed : WellFormed (.feed 0 .b1 0x100) = false := by decide
theorem test_wellFormed_refuses_wide_ioWrite : WellFormed (.ioWrite 0x2124 .b2 0x10000) = false := by decide
theorem test_wellFormed_refuses_wide_memWrite : WellFormed (.memWrite 0 .b1 0x1FF) = false := by decide
theorem test_wellFormed_refuses_decoded_wrUndecoded : WellFormed (.wrUndecoded 0x24 0) = false := by decide
theorem test_wellFormed_refuses_decoded_rdUndecoded : WellFormed (.rdUndecoded 0x80 ) = false := by decide
theorem test_wellFormed_refuses_undecoded_rdWindow : WellFormed (.rdWindow 0x50) = false := by decide
theorem test_wellFormed_accepts_widest : WellFormed (.ioWrite 0x2124 .b4 0xFFFFFFFF) = true := by decide

/-- The offsets at the ends of the undecoded ranges of R98, and their decoded neighbours. -/
theorem test_undecoded_ranges :
    ([0x00, 0x23, 0x25, 0x26, 0x34, 0x37, 0x50, 0x67, 0x6C, 0x77] : List Byte).all undecodedOffset = true ∧
    ([0x24, 0x27, 0x33, 0x38, 0x4F, 0x68, 0x6B, 0x78, 0x7F, 0x80, 0xFF] : List Byte).any undecodedOffset = false := by
  decide

/-! ## Decoding, from records written out from spec/30_encoding.md -/

/-- A record that decodes to an instruction. -/
def reads (t : Tx) (i : Instr) : Bool :=
  match decode t with
  | .ok j => j == i
  | .error _ => false

/-- A record that is rejected, by this name. -/
def rejects (t : Tx) (e : DecodeError) : Bool :=
  match decode t with
  | .ok _ => false
  | .error d => d == e

/-- The command codes of R104. -/
theorem test_decode_commands :
    reads ⟨.command, 0x01, 0, 0, 0⟩ .bitblt ∧ reads ⟨.command, 0x03, 0, 0, 0⟩ .scanline ∧
    reads ⟨.command, 0x04, 0, 0, 0⟩ .bresenham ∧ reads ⟨.command, 0x05, 0, 0, 0⟩ .shortvec ∧
    reads ⟨.command, 0x06, 0, 0, 0⟩ .fastline := by decide

/-- The reserved codes of R105, at the ends of their ranges. -/
theorem test_decode_nop_codes :
    ([0x00, 0x02, 0x07, 0x08, 0x0F, 0x10, 0x1F, 0x20, 0x3F, 0x40, 0x7F, 0x80, 0xFF] : List Byte).all
      (fun c => reads ⟨.command, c.setWidth 16, 0, 0, 0⟩ (.nopCmd c)) = true := by decide

/-- The forms of BITBLT: code 1 with SRCPAT = bit 1, SRCDISP = bit 2, SRCMONO = bit 6 (R100, R231 to R235). -/
theorem test_decode_bitblt_forms :
    reads ⟨.commandFlags, 1, 0, 0b100, 0⟩ .bitbltDisplay ∧ reads ⟨.commandFlags, 1, 0, 0b10, 0⟩ .bitbltPattern ∧
    reads ⟨.commandFlags, 1, 1, 0, 0⟩ .bitbltCpuNative ∧ reads ⟨.commandFlags, 1, 1, 0b1000000, 0⟩ .bitbltCpuMono ∧
    reads ⟨.commandFlags, 1, 0, 0, 0⟩ .bitbltZeroStream := by decide

/-- The one-byte registers and the command word of R94 and R99. -/
theorem test_decode_command_word :
    reads ⟨.windowWrite, 0x24, 1, 0x04, 0⟩ (.wrCommand 0x04) ∧ reads ⟨.windowWrite, 0x27, 1, 0xCC, 0⟩ (.wrRop 0xCC) ∧
    reads ⟨.windowLong, 0x24, 4, 0xCC000001, 0⟩ (.wrCommandRop 0xCC000001) := by decide

/-- The 32-bit registers of R94, a byte in each lane (R93). -/
theorem test_decode_window_long_registers :
    reads ⟨.windowWrite, 0x28, 1, 1, 0⟩ (.wrFlags 0 1) ∧ reads ⟨.windowWrite, 0x2B, 1, 2, 0⟩ (.wrFlags 3 2) ∧
    reads ⟨.windowWrite, 0x2C, 1, 3, 0⟩ (.wrFgCol 0 3) ∧ reads ⟨.windowWrite, 0x2F, 1, 4, 0⟩ (.wrFgCol 3 4) ∧
    reads ⟨.windowWrite, 0x30, 1, 5, 0⟩ (.wrBgCol 0 5) ∧ reads ⟨.windowWrite, 0x32, 1, 6, 0⟩ (.wrBgCol 2 6) ∧
    reads ⟨.windowWrite, 0x44, 1, 7, 0⟩ (.wrStyle 0 7) ∧ reads ⟨.windowWrite, 0x45, 1, 8, 0⟩ (.wrStyle 1 8) ∧
    reads ⟨.windowWrite, 0x68, 1, 9, 0⟩ (.wrCkey 0 9) ∧ reads ⟨.windowWrite, 0x6B, 1, 10, 0⟩ (.wrCkey 3 10) ∧
    reads ⟨.windowWrite, 0x78, 1, 11, 0⟩ (.wrFgColMirror 0 11) ∧
    reads ⟨.windowWrite, 0x7B, 1, 12, 0⟩ (.wrFgColMirror 3 12) ∧
    reads ⟨.windowWrite, 0x7C, 1, 13, 0⟩ (.wrBgColMirror 0 13) ∧
    reads ⟨.windowWrite, 0x7F, 1, 14, 0⟩ (.wrBgColMirror 3 14) := by decide

/-- The 16-bit registers of R94, both lanes (R93). -/
theorem test_decode_window_word_registers :
    reads ⟨.windowWrite, 0x38, 1, 1, 0⟩ (.wrDstX 0 1) ∧ reads ⟨.windowWrite, 0x39, 1, 2, 0⟩ (.wrDstX 1 2) ∧
    reads ⟨.windowWrite, 0x3A, 1, 3, 0⟩ (.wrDstY 0 3) ∧ reads ⟨.windowWrite, 0x3B, 1, 4, 0⟩ (.wrDstY 1 4) ∧
    reads ⟨.windowWrite, 0x3C, 1, 5, 0⟩ (.wrSrcX 0 5) ∧ reads ⟨.windowWrite, 0x3D, 1, 6, 0⟩ (.wrSrcX 1 6) ∧
    reads ⟨.windowWrite, 0x3E, 1, 7, 0⟩ (.wrSrcY 0 7) ∧ reads ⟨.windowWrite, 0x3F, 1, 8, 0⟩ (.wrSrcY 1 8) ∧
    reads ⟨.windowWrite, 0x40, 1, 9, 0⟩ (.wrSizeX 0 9) ∧ reads ⟨.windowWrite, 0x41, 1, 10, 0⟩ (.wrSizeX 1 10) ∧
    reads ⟨.windowWrite, 0x42, 1, 11, 0⟩ (.wrSizeY 0 11) ∧ reads ⟨.windowWrite, 0x43, 1, 12, 0⟩ (.wrSizeY 1 12) ∧
    reads ⟨.windowWrite, 0x48, 1, 13, 0⟩ (.wrClipLeft 0 13) ∧ reads ⟨.windowWrite, 0x49, 1, 14, 0⟩ (.wrClipLeft 1 14) ∧
    reads ⟨.windowWrite, 0x4A, 1, 15, 0⟩ (.wrClipTop 0 15) ∧ reads ⟨.windowWrite, 0x4B, 1, 16, 0⟩ (.wrClipTop 1 16) ∧
    reads ⟨.windowWrite, 0x4C, 1, 17, 0⟩ (.wrClipRight 0 17) ∧
    reads ⟨.windowWrite, 0x4D, 1, 18, 0⟩ (.wrClipRight 1 18) ∧
    reads ⟨.windowWrite, 0x4E, 1, 19, 0⟩ (.wrClipBottom 0 19) ∧
    reads ⟨.windowWrite, 0x4F, 1, 20, 0⟩ (.wrClipBottom 1 20) := by decide

/-- The pattern range, the undecoded offsets and the window reads of R94, R97, R98. -/
theorem test_decode_window_rest :
    reads ⟨.windowWrite, 0x80, 1, 1, 0⟩ (.wrPattern 0 1) ∧ reads ⟨.windowWrite, 0xFF, 1, 2, 0⟩ (.wrPattern 127 2) ∧
    reads ⟨.windowWrite, 0x23, 1, 3, 0⟩ (.wrUndecoded 0x23 3) ∧ reads ⟨.windowWrite, 0x25, 1, 4, 0⟩ (.wrUndecoded 0x25 4) ∧
    reads ⟨.windowRead, 0x27, 1, 0, 0⟩ (.rdWindow 0x27) ∧ reads ⟨.windowRead, 0x77, 1, 0, 0⟩ (.rdUndecoded 0x77) := by
  decide

/-- The ports of R109. -/
theorem test_decode_ports :
    reads ⟨.portWrite, 0x3C4, 1, 1, 0⟩ (.portSeqIdx (.write 1)) ∧ reads ⟨.portRead, 0x3C4, 1, 0, 0⟩ (.portSeqIdx .read) ∧
    reads ⟨.portWrite, 0x3C5, 1, 2, 0⟩ (.portSeqData (.write 2)) ∧ reads ⟨.portRead, 0x3C5, 1, 0, 0⟩ (.portSeqData .read) ∧
    reads ⟨.portWrite, 0x3CE, 1, 3, 0⟩ (.portGdcIdx (.write 3)) ∧ reads ⟨.portRead, 0x3CE, 1, 0, 0⟩ (.portGdcIdx .read) ∧
    reads ⟨.portWrite, 0x3CF, 1, 4, 0⟩ (.portGdcData (.write 4)) ∧ reads ⟨.portRead, 0x3CF, 1, 0, 0⟩ (.portGdcData .read) ∧
    reads ⟨.portWrite, 0x3D4, 1, 5, 0⟩ (.portCrtcIdx (.write 5)) ∧
    reads ⟨.portRead, 0x3D4, 1, 0, 0⟩ (.portCrtcIdx .read) ∧
    reads ⟨.portWrite, 0x3D5, 1, 6, 0⟩ (.portCrtcData (.write 6)) ∧
    reads ⟨.portRead, 0x3D5, 1, 0, 0⟩ (.portCrtcData .read) ∧
    reads ⟨.portWrite, 0x3D8, 1, 7, 0⟩ (.portWbank (.write 7)) ∧ reads ⟨.portRead, 0x3D8, 1, 0, 0⟩ (.portWbank .read) ∧
    reads ⟨.portWrite, 0x3D9, 1, 8, 0⟩ (.portRbank (.write 8)) ∧
    reads ⟨.portRead, 0x3D9, 1, 0, 0⟩ (.portRbank .read) := by decide

/-- The transactions of R90 and the events of R91 and R290. -/
theorem test_decode_transactions_and_events :
    reads ⟨.ioWrite, 0x2124, 4, 0xF0000004, 0⟩ (.ioWrite 0x2124 .b4 0xF0000004) ∧
    reads ⟨.ioRead, 0x212C, 2, 0, 0⟩ (.ioRead 0x212C .b2) ∧
    reads ⟨.memWrite, 0, 1, 0x55, 0xA0010⟩ (.memWrite 0xA0010 .b1 0x55) ∧
    reads ⟨.memRead, 0, 4, 0, 0xE0000012⟩ (.memRead 0xE0000012 .b4) ∧
    reads ⟨.feed, 0, 2, 0x2211, 0xA0000⟩ (.feed 0xA0000 .b2 0x2211) ∧
    reads ⟨.modeUpdate, 0, 0, 16, 80⟩ (.modeUpdate 16 80) ∧
    reads ⟨.pciSetMemEnable, 0, 0, 1, 0⟩ (.pciSetMemEnable true) ∧
    reads ⟨.pciSetBar, 1, 0, 0xF0000000, 0⟩ (.pciSetBar 1 0xF0000000) ∧
    reads ⟨.clearDirty, 0, 0, 7, 0⟩ (.clearDirty 7) ∧ reads ⟨.reset, 0, 0, 0, 0⟩ .reset := by decide

/-- What is no transaction is rejected by its name. -/
theorem test_decode_rejections :
    rejects ⟨.tableWord, 0x3C0, 0, 0, 0⟩ .unknownTableWord ∧ rejects ⟨.commandFlags, 1, 0, 8, 0⟩ .unknownCommandForm ∧
    rejects ⟨.windowWrite, 0x100, 1, 0, 0⟩ .badOffset ∧ rejects ⟨.windowLong, 0x28, 4, 0, 0⟩ .badLongOffset ∧
    rejects ⟨.portRead, 0x3C0, 1, 0, 0⟩ .unknownPort ∧ rejects ⟨.ioRead, 0x2124, 3, 0, 0⟩ .badWidth ∧
    rejects ⟨.ioWrite, 0x2124, 1, 0x100, 0⟩ .valueTooWide ∧ rejects ⟨.reset, 1, 0, 0, 0⟩ .strayField := by decide

/-- Bare table words with a data byte above the 16 matched bits, and a command row's word. -/
theorem test_decode_table_words :
    decodeTableWord 24 0x5A0039 = some (.wrDstX 1 0x5A) ∧ decodeTableWord 8 0x06 = some .fastline ∧
    decodeTableWord 16 0x03D8 = some (.portWbank (.write 0)) ∧ decodeTableWord 16 0x03C0 = none := by decide

/-- No two rows that fix their bits are matched by one word (NOP_CMD, which R104 gives "any other" code, apart). -/
theorem test_rows_do_not_overlap :
    (portRows ++ commandRows ++ writeRows.map Row.asTableWord).Pairwise
      (fun r q => (r.pat ^^^ q.pat) &&& r.mask &&& q.mask ≠ 0) := by decide

/-! ## One step at a time -/

/-- The state after an instruction, if it goes on. -/
def after (i : Instr) (s : State) : Option State :=
  match exec i s with
  | .next t => some t
  | .fault _ => none
  | .refused _ => none

/-- The engine defaults of spec/95_test_vectors.md section 1: 8 bits per pixel, pitch 16, an open clip rectangle. -/
def engine : State :=
  { State.reset with accelBpp := .bpp8, rowOffset := 2, clipRight := 0x7FFF, clipBottom := 0x7FFF }

/-- The engine defaults with a row of bytes in video memory from address 0. -/
def withRow (bs : List Byte) : State := { engine with vram := Memory.writeBytes [] 0 bs }

/-- Bytes of video memory. -/
def bytesAt (t : State) (a n : Nat) : List Byte := t.vram.readBytes a n

/-- A PCI instance with memory space enabled (vector V31). -/
def enabled : State := { State.reset with pciMemEn := true }

/-- The engine awaiting native 8-bit data for one row of four pixels (vector V60), memory space enabled. -/
def awaiting : State :=
  let s : State := { engine with pciMemEn := true, rop := 0xCC, useSrc := 0x33, sizeX := 3 }
  { s with command := 1, eng := .awaitSrc (snapshot s) }

/-- The engine awaiting mono data for one row of eight pixels (vector V64), memory space enabled. -/
def awaitingMono : State :=
  let s : State := { engine with pciMemEn := true, rop := 0xCC, useSrc := 0x33, sizeX := 7, flags := 0x40, fgCol := 0xFF }
  { s with command := 1, eng := .awaitSrc (snapshot s) }

/-- A Gen0 instance whose sub-mode is bound to `gdc[0x07][1:0]` and set to the given value, none of its functions
supplied. -/
def gen0 (mode : Byte) : State :=
  let cfg : Config := { Config.referenceFor .gen0 true with
    binding := { Binding.reference with subMode := some ⟨⟨.gdc, 7, 0⟩, .mono, .latch, .normal⟩ } }
  { State.attach cfg with pciMemEn := true, gdc := (Vector.replicate 256 (0 : Byte)).set 7 mode }

/-- The same with all three functions supplied and the linear base programmed. -/
def gen0Given (mode : Byte) : State :=
  { gen0 mode with
    cfg := { (gen0 mode).cfg with gen0MonoWriteGiven := true, gen0LatchWriteGiven := true, gen0LatchReadGiven := true }
    linearBase := 0xE0000000 }

/-! ### Raster operations: vectors V5, V5a, V7 and V8 -/

theorem test_mix_vectors :
    mix 0x5A 0x12345678 0x0F0F00FF 0x33CC55AA = 0x1D3B5687 ∧ mix 0x5A 0x0F 0xFF 0x12345678 = 0xF0 ∧
    mix 0x66 0x12345678 0x0F0F00FF 0x33CC55AA = 0x21F803D2 ∧ mix 0x96 0x12345678 0x0F0F00FF 0x33CC55AA = 0x2EF7032D := by
  decide +kernel

theorem test_mix_table_results :
    mix 0xB8 0x12345678 0x0F0F00FF 0x33CC55AA = 0x1E07547D ∧ mix 0xE2 0x12345678 0x0F0F00FF 0x33CC55AA = 0x033C02FA ∧
    mix 0x50 0x12345678 0x0F0F00FF 0x33CC55AA = 0x0D0B0087 ∧ mix 0x0F 0xFF 0xFF 0xFF = 0xFFFFFF00 := by decide +kernel

/-! ### Commands -/

/-- Example of R230 and vector V73: with a ROP that reads the source the command awaits data and draws nothing. -/
theorem test_bitblt_awaits :
    (after .bitblt { engine with rop := 0xCC, useSrc := 0x33 }).map (fun t => (busy t, t.vram, t.command)) =
      some (true, [], 1) := by decide +kernel

/-- Vector V45: sizes −1 and −2 draw one pixel. -/
theorem test_bitblt_negative_size :
    (after .bitblt { engine with
      flags := 0x4002, fgCol := 0x09, rop := 0xF0, sizeX := 0xFFFF, sizeY := 0xFFFE }).map (fun t => t.vram) =
      some [(0, 9)] := by decide +kernel

/-- Vector V43. -/
theorem test_bitbltDisplay_copies :
    (after .bitbltDisplay { withRow [0x11, 0x22] with
      flags := 4, rop := 0xCC, useSrc := 0x33, dstY := 1, sizeX := 1 }).map (fun t => (bytesAt t 16 2, busy t)) =
      some ([0x11, 0x22], false) := by decide +kernel

/-- Vector V58: TRANSENA and TRANSREV skip the source equal to the foreground. -/
theorem test_bitbltDisplay_transparent :
    (after .bitbltDisplay { withRow ([0x10, 0x20, 0x10, 0x30] ++ List.replicate 12 0 ++ List.replicate 4 0xEE) with
      flags := 0x3004, rop := 0xCC, useSrc := 0x33, fgCol := 0x30, bgCol := 0x10, dstY := 1, sizeX := 3 }).map
        (fun t => bytesAt t 16 4) = some [0x10, 0x20, 0x10, 0xEE] := by decide +kernel

/-- Vector V44. -/
theorem test_bitbltPattern_solid :
    (after .bitbltPattern { engine with flags := 0x4002, fgCol := 0x5A, rop := 0xF0, sizeX := 3, sizeY := 1 }).map
      (fun t => (bytesAt t 0 5, bytesAt t 16 5)) =
      some ([0x5A, 0x5A, 0x5A, 0x5A, 0], [0x5A, 0x5A, 0x5A, 0x5A, 0]) := by decide +kernel

/-- Vector V49: the pattern is anchored at the destination coordinates. -/
theorem test_bitbltPattern_mono :
    (after .bitbltPattern { engine with
      pattern := (Vector.replicate 128 (0 : Byte)).set 0 0x80 |>.set 1 0x40, flags := 0x22, fgCol := 0xFF, bgCol := 0x11,
      rop := 0xF0, dstX := 6, sizeX := 3, sizeY := 1 }).map (fun t => (bytesAt t 6 4, bytesAt t 22 4)) =
      some ([0x11, 0x11, 0xFF, 0x11], [0x11, 0x11, 0x11, 0xFF]) := by decide +kernel

/-- Vector V73 by the table's own row: the native form awaits data. -/
theorem test_bitbltCpuNative_awaits :
    (after .bitbltCpuNative { engine with rop := 0xCC, useSrc := 0x33, sizeX := 3 }).map (fun t => (busy t, t.vram)) =
      some (true, []) := by decide +kernel

/-- Vector V97: a new command aborts the awaiting one, its pixels stay, and it starts at pixel 0. -/
theorem test_bitbltCpuNative_restarts :
    ((after .bitbltCpuNative (feed [0x11, 0x22] awaiting)).map (fun t => (busy t, bytesAt t 0 4, (feed [0x55] t).vram.read 0))) =
      some (true, [0x11, 0x22, 0, 0], 0x55) := by decide +kernel

/-- Example of R234, up to its feed. -/
theorem test_bitbltCpuMono_awaits :
    (after .bitbltCpuMono { engine with flags := 0x40, rop := 0xCC, useSrc := 0x33, sizeX := 7 }).map
      (fun t => (busy t, t.vram)) = some (true, []) := by decide +kernel

/-- Vector V72. -/
theorem test_bitbltZeroStream_runs :
    (after .bitbltZeroStream { engine with flags := 0x4000, rop := 0xF0, fgCol := 0x77, sizeX := 1 }).map
      (fun t => (bytesAt t 0 3, busy t)) = some ([0x77, 0x77, 0], false) := by decide +kernel

/-- Vector V71: the zero datum is the background, which is transparent. -/
theorem test_bitbltZeroStream_transparent :
    (after .bitbltZeroStream { withRow [0x44, 0x44] with flags := 0x1040, rop := 0x55, sizeX := 1 }).map
      (fun t => bytesAt t 0 2) = some [0x44, 0x44] := by decide +kernel

/-- Vector V80. -/
theorem test_scanline_xors :
    (after .scanline { withRow ([1, 2, 3] ++ List.replicate 13 0 ++ [0xF0, 0xF0, 0xF0]) with
      rop := 0x66, useSrc := 0x33, dstY := 1, sizeX := 2 }).map (fun t => bytesAt t 16 4) =
      some [0xF1, 0xF2, 0xF3, 0] := by decide +kernel

/-- Vector V82: flags that would select the CPU read display memory. -/
theorem test_scanline_mono_flag :
    (after .scanline { withRow [7, 8] with flags := 0x40, rop := 0xCC, useSrc := 0x33, dstY := 1, sizeX := 1 }).map
      (fun t => (bytesAt t 16 2, busy t)) = some ([7, 8], false) := by decide +kernel

/-- Vector V92: (0,0) (1,1) (2,1) (3,2) (4,2). -/
theorem test_bresenham_octant_0 :
    (after .bresenham { engine with rop := 0xF0, fgCol := 1, sizeY := 4, srcY := 4, srcX := 0xFFFC }).map
      (fun t => t.vram) = some [(0, 1), (17, 1), (18, 1), (35, 1), (36, 1)] := by decide +kernel

/-- Vector V91: octant 7 from (10,10), y major, both steps negative. -/
theorem test_bresenham_octant_7 :
    (after .bresenham { engine with
      flags := 0x700, rop := 0xF0, fgCol := 1, dstX := 10, dstY := 10, sizeY := 4, srcY := 4, srcX := 0xFFFC }).map
      (fun t => t.vram) = some [(6 * 16 + 8, 1), (7 * 16 + 8, 1), (8 * 16 + 9, 1), (9 * 16 + 9, 1), (10 * 16 + 10, 1)] := by
  decide +kernel

/-- Vector V93-9: (5,5) (6,4) (7,3). -/
theorem test_shortvec_ne :
    (after .shortvec { engine with flags := 0x100, rop := 0xF0, fgCol := 1, dstX := 5, dstY := 5, sizeY := 2 }).map
      (fun t => t.vram) = some [(3 * 16 + 7, 1), (4 * 16 + 6, 1), (5 * 16 + 5, 1)] := by decide +kernel

/-- Vector V93-5: (10,10) (9,11) (8,12). -/
theorem test_shortvec_sw :
    (after .shortvec { engine with flags := 0x500, rop := 0xF0, fgCol := 1, dstX := 10, dstY := 10, sizeY := 2 }).map
      (fun t => t.vram) = some [(10 * 16 + 10, 1), (11 * 16 + 9, 1), (12 * 16 + 8, 1)] := by decide +kernel

/-- The example of R255 on Gen2: (0,0) (0,1). -/
theorem test_fastline_gen2 :
    (after .fastline { engine with flags := 0x600, rop := 0xF0, fgCol := 7, sizeY := 1 }).map (fun t => t.vram) =
      some [(0, 7), (16, 7)] := by decide +kernel

/-- Vector V96: on Gen1 the code only aborts. -/
theorem test_fastline_gen1 :
    (after .fastline { awaiting with cfg := Config.referenceFor .gen1 true, fgCol := 7 }).map (fun t => (busy t, t.vram)) =
      some (false, []) := by decide +kernel

/-- Vector V95. -/
theorem test_nopCmd_aborts :
    (after (.nopCmd 0x00) awaiting).map (fun t => (busy t, t.vram, t.command)) = some (false, [], 0) := by decide +kernel

/-- Vectors V60 and V61: the route of 0xA0010 is the banked window, and its own byte is not written. -/
theorem test_feed_native :
    (after (.feed 0xA0010 .b2 0x2211) awaiting).map (fun t => (bytesAt t 0 4, t.vram.read 0x10, busy t)) =
      some ([0x11, 0x22, 0, 0], 0, true) := by decide +kernel

/-- Vector V68: data past the last pixel are lost, and the command is complete. -/
theorem test_feed_completes :
    (after (.feed 0xA0000 .b4 0x44332211) { awaiting with eng := .awaitSrc { snapshot awaiting with sizeX := 1 } }).map
      (fun t => (bytesAt t 0 4, busy t)) = some ([0x11, 0x22, 0, 0], false) := by decide +kernel

/-! ### Window writes -/

/-- Example of R143: an invalid code while busy aborts. -/
theorem test_wrCommand_invalid : (after (.wrCommand 0x02) awaiting).map (fun t => (busy t, t.vram)) = some (false, []) := by
  decide +kernel

/-- The code 0x05 written as a byte draws (V93-8). -/
theorem test_wrCommand_shortvec :
    (after (.wrCommand 0x05) { engine with rop := 0xF0, fgCol := 1, dstX := 10, dstY := 10, sizeY := 0xFFFF }).map
      (fun t => t.vram) = some [(170, 1)] := by decide +kernel

/-- Vector V25. -/
theorem test_wrCommandRop_nop :
    (after (.wrCommandRop 0x66000000) awaiting).map (fun t => (t.rop, t.useSrc, busy t)) = some (0x66, 0x33, false) := by
  decide +kernel

/-- Example of R142: the started command sees the new ROP. -/
theorem test_wrCommandRop_starts :
    (after (.wrCommandRop 0xCC000001) engine).map (fun t => (t.rop, t.useSrc, busy t)) = some (0xCC, 0x33, true) := by
  decide +kernel

/-- Examples of R144. -/
theorem test_wrRop :
    (after (.wrRop 0xAA) engine).map (fun t => (t.rop, t.useSrc)) = some (0xAA, 0) ∧
    (after (.wrRop 0xB8) engine).map (fun t => t.useSrc) = some 0x12 := by decide +kernel

/-- Example of R145. -/
theorem test_wrFlags : (after (.wrFlags 0 0x02) { engine with flags := 0x1000 }).map (fun t => t.flags) = some 0x1002 := by
  decide +kernel

/-- The bytes of vector V18, one lane each. -/
theorem test_wrFgCol : (after (.wrFgCol 3 0x11) { engine with fgCol := 0x00223344 }).map (fun t => t.fgCol) = some 0x11223344 := by
  decide +kernel

theorem test_wrFgColMirror :
    (after (.wrFgColMirror 2 0x22) { engine with fgCol := 0x11003344 }).map (fun t => t.fgCol) = some 0x11223344 := by
  decide +kernel

/-- The bytes of vector V19. -/
theorem test_wrBgCol : (after (.wrBgCol 0 0xDD) { engine with bgCol := 0xAABBCC00 }).map (fun t => t.bgCol) = some 0xAABBCCDD := by
  decide +kernel

theorem test_wrBgColMirror :
    (after (.wrBgColMirror 1 0xCC) { engine with bgCol := 0xAABB00DD }).map (fun t => t.bgCol) = some 0xAABBCCDD := by
  decide +kernel

/-- R145 for the two registers without semantics (R28). -/
theorem test_wrStyle_wrCkey :
    (after (.wrStyle 1 0xAB) engine).map (fun t => t.style) = some 0xAB00 ∧
    (after (.wrCkey 3 0xCD) engine).map (fun t => t.ckey) = some 0xCD000000 := by decide +kernel

/-- Example of R140, and vector V17: dst_x does not sign-extend. -/
theorem test_wrDstX :
    (after (.wrDstX 1 0x01) { engine with dstX := 0x20 }).map (fun t => t.dstX) = some 0x0120 ∧
    (after (.wrDstX 1 0x20) engine).map (fun t => t.dstX) = some 0x2000 := by decide +kernel

theorem test_wrDstY : (after (.wrDstY 0 0x40) { engine with dstY := 0x0100 }).map (fun t => t.dstY) = some 0x0140 := by
  decide +kernel

/-- Vectors V13 and V14: the high byte 0x50 extends, and a low byte keeps the extension. -/
theorem test_wrSrcX :
    (after (.wrSrcX 1 0x50) { engine with srcX := 0x4000 }).map (fun t => t.srcX) = some 0xF000 ∧
    (after (.wrSrcX 0 0x34) { engine with srcX := 0xF000 }).map (fun t => t.srcX) = some 0xF034 := by decide +kernel

/-- Vector V15. -/
theorem test_wrSrcY : (after (.wrSrcY 1 0x1F) { engine with srcY := 0x00FF }).map (fun t => t.srcY) = some 0xFFFF := by
  decide +kernel

/-- Vector V16. -/
theorem test_wrSizeX :
    (after (.wrSizeX 1 0x20) engine).map (fun t => t.sizeX) = some 0xE000 ∧
    (after (.wrSizeX 1 0x1F) { engine with sizeX := 0xE0FF }).map (fun t => t.sizeX) = some 0x1FFF := by decide +kernel

/-- Vector V17. -/
theorem test_wrSizeY : (after (.wrSizeY 1 0x90) engine).map (fun t => t.sizeY) = some 0x9000 := by decide +kernel

/-- The clip bytes of program P4 (offsets 0x4C to 0x4F), and the other two bounds. -/
theorem test_wrClip :
    (after (.wrClipRight 0 0x07) State.reset).map (fun t => t.clipRight) = some 7 ∧
    (after (.wrClipBottom 0 0x03) State.reset).map (fun t => t.clipBottom) = some 3 ∧
    (after (.wrClipLeft 1 0xFF) State.reset).map (fun t => t.clipLeft) = some 0xFF00 ∧
    (after (.wrClipTop 1 0x12) State.reset).map (fun t => t.clipTop) = some 0x1200 := by decide +kernel

/-- Example of R150. -/
theorem test_wrPattern :
    (after (.wrPattern 5 0x3C) { engine with pat32Idx := 0xFF }).map
      (fun t => (patByte t 5, pat32Byte t 0xFF, t.pat32Idx)) = some (0x3C, 0x3C, 0) := by decide +kernel

/-- R148. -/
theorem test_wrUndecoded : after (.wrUndecoded 0x6C 0x99) engine = some engine := by decide +kernel

/-! ### Window reads, ports and transactions -/

/-- Example of R149 after the example of R146. -/
theorem test_rdWindow :
    (after (.rdWindow 0x3D) { engine with srcX := 0xFF00 }).map (fun t => t.readData) = some 0xFF ∧
    (after (.rdWindow 0x79) { engine with fgCol := 0x11223344 }).map (fun t => t.readData) = some 0x33 := by decide +kernel

/-- Vector V21. -/
theorem test_rdUndecoded : (after (.rdUndecoded 0x20) engine).map (fun t => t.readData) = some 0xFF := by decide +kernel

/-- Vector V22: a word write at 0x2180 is two pattern writes. -/
theorem test_ioWrite_pattern :
    (after (.ioWrite 0x2180 .b2 0xBBAA) { engine with pat32Idx := 0xFE }).map
      (fun t => (patByte t 0, patByte t 1, pat32Byte t 0xFE, pat32Byte t 0xFF, t.pat32Idx)) =
      some (0xAA, 0xBB, 0xAA, 0xBB, 0) := by decide +kernel

/-- Vector V27: a word write at the command word leaves `rop` alone. -/
theorem test_ioWrite_word_at_command :
    (after (.ioWrite 0x2124 .b2 0x5501) { engine with rop := 0xAA }).map (fun t => (t.command, t.rop)) =
      some (1, 0xAA) := by decide +kernel

/-- Vectors V18 and V21. -/
theorem test_ioRead :
    (after (.ioRead 0x217A .b2) { engine with fgCol := 0x11223344 }).map (fun t => t.readData) = some 0x1122 ∧
    (after (.ioRead 0x2150 .b4) engine).map (fun t => t.readData) = some 0xFFFFFFFF := by decide +kernel

/-- Vector V39 and the last byte of V39b. -/
theorem test_memWrite_banked :
    (after (.memWrite 0xA0010 .b1 0x55) { enabled with wbankReg := 1 }).map (fun t => (t.vram, t.dirty)) =
      some ([(0x10010, 0x55)], [0x10]) ∧
    (after (.memWrite 0xAFFFF .b2 0xBBAA) { enabled with
      wbankReg := 0x0F, gdc := (Vector.replicate 256 (0 : Byte)).set 6 4 }).map (fun t => t.vram) =
      some [(0xFFFFF, 0xAA)] := by decide +kernel

/-- Vector V39d: while busy the accelerator aperture is a register write, not a feed. -/
theorem test_memWrite_accel_while_busy :
    (after (.memWrite 0xB4028 .b1 0x02) { awaiting with crtc := (Vector.replicate 256 (0 : Byte)).set 0x36 1 }).map
      (fun t => (t.flags, busy t, t.vram)) = some (2, true, []) := by decide +kernel

/-- Vector V39a: the read goes through the read bank. -/
theorem test_memRead_banked :
    (after (.memRead 0xA0010 .b1) { enabled with wbankReg := 1, vram := [(0x10010, 0x55)] }).map (fun t => t.readData) =
      some 0 ∧
    (after (.memRead 0xA0010 .b1) { enabled with rbankReg := 0x41, vram := [(0x10010, 0x55)] }).map
      (fun t => t.readData) = some 0x55 := by decide +kernel

/-- The four bytes of program P1's first read. -/
theorem test_memRead_linear :
    (after (.memRead 0xE0000012 .b4) { enabled with
      linearBase := 0xE0000000, vram := [(0x12, 0x5A), (0x13, 0x5A), (0x14, 0x5A), (0x15, 0x5A)] }).map
      (fun t => t.readData) = some 0x5A5A5A5A := by decide +kernel

/-- Vector V29: the index, the data byte, `lin_en` and one `recalc_timings()`. -/
theorem test_portCrtc :
    (after (.portCrtcIdx (.write 0x21)) State.reset).map (fun t => t.crtcIdx) = some 0x21 ∧
    (after (.portCrtcData (.write 0x20)) { State.reset with crtcIdx := 0x21 }).map
      (fun t => (bankByte t .crtc 0x21, linEn t, t.recalcs)) = some (0x20, true, 1) := by decide +kernel

/-- Vector V32: `map_sel` is bits 3:2 of `gdc[6]`. -/
theorem test_portGdc :
    (after (.portGdcIdx (.write 6)) State.reset).map (fun t => t.gdcIdx) = some 6 ∧
    (after (.portGdcData (.write 0x0C)) { enabled with gdcIdx := 6 }).map (fun t => mapOf t) =
      some [⟨.banked, 0xB8000, 0x8000⟩] := by decide +kernel

theorem test_portSeq :
    (after (.portSeqIdx (.write 9)) State.reset).map (fun t => t.seqIdx) = some 9 ∧
    (after (.portSeqData .read) { State.reset with seqIdx := 9, seq := (Vector.replicate 256 (0 : Byte)).set 9 0x42 }).map
      (fun t => t.readData) = some 0x42 := by decide +kernel

/-- Vectors V39 and V39a: `write_bank` and `read_bank`. -/
theorem test_portBanks :
    (after (.portWbank (.write 0x01)) State.reset).map (fun t => (writeBank t, readBank t)) = some (0x10000, 0) ∧
    (after (.portRbank (.write 0x41)) State.reset).map (fun t => (writeBank t, readBank t)) = some (0, 0x10000) := by
  decide +kernel

/-! ### Events -/

/-- Vectors V41 and V42. -/
theorem test_modeUpdate :
    (after (.modeUpdate 16 80) State.reset).map (fun t => (t.accelBpp, pitchOf t.accelBpp t.rowOffset)) =
      some (.bpp16, 320) ∧
    (after (.modeUpdate 24 80) State.reset).map (fun t => (t.accelBpp, pitchOf t.accelBpp t.rowOffset)) =
      some (.bpp8, 640) := by decide +kernel

/-- Vectors V31 and V37. -/
theorem test_pciSetMemEnable :
    (after (.pciSetMemEnable true) State.reset).map (fun t => (mapOf t, route t 0xBFFFF, route t 0xC0000)) =
      some ([⟨.banked, 0xA0000, 0x20000⟩], .banked 0x1FFFF, .unclaimed) ∧
    (after (.pciSetMemEnable false) enabled).map (fun t => mapOf t) = some [] := by decide +kernel

/-- Vectors V35 and V36a's MMIO base. -/
theorem test_pciSetBar :
    (after (.pciSetBar 0 0xE0000000) enabled).map (fun t => mapOf t) =
      some [⟨.banked, 0xA0000, 0x20000⟩, ⟨.linear, 0xE0000000, 0x100000⟩] ∧
    (after (.pciSetBar 1 0xF0000000) enabled).map (fun t => t.mmioBase) = some 0xF0000000 := by decide +kernel

theorem test_clearDirty :
    (after (.clearDirty 7) { engine with dirty := [3, 7, 9] }).map (fun t => t.dirty) = some [3, 9] := by decide +kernel

/-- R291: after `reset()` an awaiting PCI instance is idle and its apertures are closed. -/
theorem test_reset :
    (after .reset { awaiting with cfg := { Config.reference with vramInit := [(5, 0x77)] } }).map
      (fun t => (busy t, t.pciMemEn, mapOf t, t.vram)) = some (false, false, [], [(5, 0x77)]) := by decide +kernel

/-- A placed table word is what the next step runs, from the state after reset. -/
theorem test_withFetchWord :
    (match step (State.reset.withFetchWord 24 0xCC0027) with
      | .next t => decide (t.rop = 0xCC ∧ t.useSrc = 0x33 ∧ t.pending = [])
      | .fault _ => false
      | .refused _ => false) = true := by decide +kernel

/-! ## States that meet the hypotheses of the statements -/

theorem witness_DecodeEncodeRoundTrip :
    WellFormed (.nopCmd 0xFF) = true ∧ WellFormed (.feed 0xFFFFFFFF .b2 0xFFFF) = true ∧
    WellFormed (.wrUndecoded 0x77 0xFF) = true ∧ WellFormed (.rdWindow 0x78) = true := by decide

theorem witness_DecodedInstructionsAreWellFormed :
    reads ⟨.command, 0x02, 0, 0, 0⟩ (.nopCmd 0x02) = true ∧
    reads ⟨.memWrite, 0, 2, 0xFFFF, 0xFFFFFFFF⟩ (.memWrite 0xFFFFFFFF .b2 0xFFFF) = true := by decide

/-- A pending record that decodes, none pending, and a pending record that decodes to nothing. -/
theorem witness_StepRunsDecodedTransaction :
    (placeTx ⟨.reset, 0, 0, 0, 0⟩ State.reset).pending = [⟨.reset, 0, 0, 0, 0⟩] ∧
    reads ⟨.reset, 0, 0, 0, 0⟩ .reset = true ∧ State.reset.pending = [] ∧
    rejects ⟨.ioRead, 0, 3, 0, 0⟩ .badWidth = true := by decide +kernel

/-- Operands that agree in lane 31 and differ elsewhere. -/
theorem witness_MixActsLanewise : (0x80000000 : Word).getLsbD 31 = (0xFFFFFFFF : Word).getLsbD 31 := by decide

theorem witness_UndecodedOffsetsAreInert : undecodedOffset 0x00 = true ∧ undecodedOffset 0x77 = true := by decide

/-- A plain offset, the sign-extended high bytes with their sign bit set, and the last pattern cell. -/
theorem witness_RegisterRoundTrip :
    ([0x27, 0x3D, 0x3F, 0x41, 0xFF] : List Byte).all (fun o => !undecodedOffset o && o != 0x24) = true ∧
    (0x10 : Byte).getLsbD 4 = true ∧ (0x20 : Byte).getLsbD 5 = true := by decide

/-- The first and last port of the register file, and the ports beside it. -/
theorem witness_IoByteWritesAreDecoded :
    (0x2120 ≤ (0x2120 : Half).toNat ∧ (0x2120 : Half).toNat ≤ 0x21FF) ∧
    (0x2120 ≤ (0x21FF : Half).toNat ∧ (0x21FF : Half).toNat ≤ 0x21FF) ∧
    (((0x211F : Half).toNat < 0x2120 ∨ 0x21FF < (0x211F : Half).toNat) ∧
      (0x211F : Half) ∉ ([0x3C4, 0x3C5, 0x3CE, 0x3CF, 0x3D4, 0x3D5] : List Half)) ∧
    (((0x2200 : Half).toNat < 0x2120 ∨ 0x21FF < (0x2200 : Half).toNat) ∧
      (0x2200 : Half) ∉ ([0x3C4, 0x3C5, 0x3CE, 0x3CF, 0x3D4, 0x3D5] : List Half)) ∧
    State.reset.cfg.binding.wbankPort = 0x3D8 ∧ State.reset.cfg.binding.rbankPort = 0x3D9 := by decide +kernel

theorem witness_IoWideWritesDecompose : (0x2123 : Half) ≠ 0x2124 ∧ (0xFFFF : Half) ≠ 0x2124 := by decide

/-- The first and last port of the register file, the two bank ports, and an unclaimed port below the register file. -/
theorem witness_IoReadsAssemblePorts :
    (0x2120 ≤ (0x2120 : Half).toNat ∧ (0x21FF : Half).toNat ≤ 0x21FF) ∧
    ([0x3D8, 0x3D9] : List Half).all (fun q =>
      q.toNat < 0x2120 && !([0x3C4, 0x3C5, 0x3CE, 0x3CF, 0x3D4, 0x3D5] : List Half).contains q) = true ∧
    State.reset.cfg.binding.wbankPort = 0x3D8 ∧ State.reset.cfg.binding.rbankPort = 0x3D9 ∧
    ((0x211F : Half).toNat < 0x2120 ∨ 0x21FF < (0x211F : Half).toNat) ∧
    (0x211F : Half) ∉ ([0x3C4, 0x3C5, 0x3CE, 0x3CF, 0x3D4, 0x3D5] : List Half) ∧
    (0x211F : Half) ≠ State.reset.cfg.binding.wbankPort ∧ (0x211F : Half) ≠ State.reset.cfg.binding.rbankPort := by
  decide +kernel

theorem witness_PciEventsSetDecodeFields : State.reset.cfg.isPci = true ∧ (2 : Byte) ≠ 0 ∧ (2 : Byte) ≠ 1 := by
  decide +kernel

/-- All four apertures active: banked window, linear at 0xE0000000, accelerator at 0xB4000, MMIO over the linear one. -/
def fourApertures : State :=
  { enabled with
    linearBase := 0xE0000000, mmioBase := 0xE0000000
    crtc := (Vector.replicate 256 (0 : Byte)).set 0x36 1 |>.set 0x39 1 }

/-- A Gen2 instance, and Gen0 instances without and with a binding of the sub-mode, for its values 1 and 2. -/
theorem witness_ActiveApertures :
    State.reset.cfg.gen ≠ .gen0 ∧ (Config.referenceFor .gen0 true).binding.subMode = none ∧
    (gen0 1).cfg.gen = .gen0 ∧ (gen0 1).cfg.binding.subMode.isSome = true ∧ subMode (gen0 1) = .mono ∧
    subMode (gen0 2) = .latch := by decide +kernel

/-- One address for each clause: the accelerator aperture over the banked window, MMIO over the linear aperture, the
linear aperture past the MMIO one, the banked window, and none. -/
theorem witness_RoutePrecedence :
    (mapOf fourApertures).map (fun p => (p.kind, [0xB4000, 0xE0000000, 0xE0010000, 0xA0000, 0xC0000].map p.holds)) =
      [(.banked, [true, false, false, true, false]), (.linear, [false, true, true, false, false]),
        (.accel, [true, false, false, false, false]), (.mmio, [false, true, false, false, false])] := by decide +kernel

/-- Two states that agree on the fields of R170 and differ elsewhere, and an enabled PCI instance. -/
theorem witness_DecodeIsIdempotent :
    engine.cfg = State.reset.cfg ∧ linEn engine = linEn State.reset ∧ mapSel engine = mapSel State.reset ∧
    accelSel engine = accelSel State.reset ∧ mmioEn engine = mmioEn State.reset ∧
    engine.pciMemEn = State.reset.pciMemEn ∧ enabled.cfg.isPci = true ∧ enabled.pciMemEn = true ∧
    engine.linearBase = State.reset.linearBase ∧ engine.mmioBase = State.reset.mmioBase ∧
    Instr.portWbank (.write 3) ∈ ([.portCrtcData (.write 3), .portSeqData (.write 3), .portGdcData (.write 3),
      .portWbank (.write 3), .portRbank (.write 3)] : List Instr) := by decide +kernel

/-- The banked window through a write bank that wraps, the last linear byte, and a busy engine whose apertures feed
nothing. -/
theorem witness_FramebufferByteWrites :
    (Memory.wf enabled.vram ∧ subMode { enabled with wbankReg := 0x3F } = .normal ∧
      busy { enabled with wbankReg := 0x3F } = false ∧
      route { enabled with wbankReg := 0x3F } 0xBFFFF = .banked 0x1FFFF ∧
      ((writeBank { enabled with wbankReg := 0x3F } + 0x1FFFF) &&& vramMask enabled.cfg).toNat = 0xFFFF) ∧
    (subMode fourApertures = .normal ∧ busy fourApertures = false ∧
      route fourApertures 0xE00FFFFF = .linear 0xFFFFF) ∧
    (subMode { awaiting with cfg := { Config.reference with feedBanked := false } } = .normal ∧
      isFeedRoute { Config.reference with feedBanked := false }
        (route { awaiting with cfg := { Config.reference with feedBanked := false } } 0xA0000) = false) := by
  decide +kernel

/-- The accelerator aperture's last byte, the ends of the MMIO aperture's window and the MMIO ports beside it. -/
theorem witness_RegisterApertureWrites :
    route fourApertures 0xB7FFF = .accel 0xFF ∧ route fourApertures 0xE0002100 = .mmio 0x2100 ∧
    route fourApertures 0xE00021FF = .mmio 0x21FF ∧ route fourApertures 0xE00020FF = .mmio 0x20FF ∧
    route fourApertures 0xE0002200 = .mmio 0x2200 := by decide +kernel

theorem witness_UnclaimedAddresses : route State.reset 0xA0000 = .unclaimed ∧ route enabled 0xC0000 = .unclaimed := by
  decide +kernel

/-- The state a completed byte write leaves, if it goes on. -/
def afterByte (a : Word) (b : Word) (s : State) : State := ((after (.memWrite a .b1 b) s).getD s)

/-- The accelerator aperture at 0xB4000 opened over the banked window, on a busy engine. -/
def awaitingMapped : State := { awaiting with crtc := (Vector.replicate 256 (0 : Byte)).set 0x36 1 }

/-- The command word through both register apertures; a word across the end of the banked window; a long write next to
the command word whose third byte starts a command that is done at once; a word and a long write of registers through the
accelerator aperture of a busy engine; a word whose second byte leaves that aperture for the banked window. -/
theorem witness_WideMemoryWrites :
    route fourApertures 0xB4024 = .accel 0x24 ∧ route fourApertures 0xE0002124 = .mmio 0x2124 ∧
    (busy enabled = false ∧ (after (.memWrite 0xBFFFF .b1 0xAA) enabled).isSome = true ∧
      busy (afterByte 0xBFFFF 0xAA enabled) = false ∧
      (after (.memWrite 0xC0000 .b1 0xBB) (afterByte 0xBFFFF 0xAA enabled)).isSome = true) ∧
    (route fourApertures 0xB4022 ≠ .accel 0x24 ∧ route fourApertures 0xB4022 ≠ .mmio 0x2124 ∧
      busy fourApertures = false ∧ busy (afterByte 0xB4022 1 fourApertures) = false ∧
      busy (afterByte 0xB4023 2 (afterByte 0xB4022 1 fourApertures)) = false ∧
      busy (afterByte 0xB4024 5 (afterByte 0xB4023 2 (afterByte 0xB4022 1 fourApertures))) = false ∧
      (after (.memWrite 0xB4025 .b1 4)
        (afterByte 0xB4024 5 (afterByte 0xB4023 2 (afterByte 0xB4022 1 fourApertures)))).isSome = true) ∧
    (busy awaitingMapped = true ∧ busy (afterByte 0xB402C 1 awaitingMapped) = true ∧
      [0xB402C, 0xB402D, 0xB402E, 0xB402F].map (route awaitingMapped) =
        [.accel 0x2C, .accel 0x2D, .accel 0x2E, .accel 0x2F] ∧
      isFeedRoute awaitingMapped.cfg (.accel 0x2C) = false ∧
      (after (.memWrite 0xB402F .b1 4)
        (afterByte 0xB402E 3 (afterByte 0xB402D 2 (afterByte 0xB402C 1 awaitingMapped)))).isSome = true) ∧
    (route awaitingMapped 0xB7FFF = .accel 0xFF ∧ busy (afterByte 0xB7FFF 1 awaitingMapped) = true ∧
      Memory.wf (afterByte 0xB7FFF 1 awaitingMapped).vram ∧ subMode (afterByte 0xB7FFF 1 awaitingMapped) = .normal ∧
      route (afterByte 0xB7FFF 1 awaitingMapped) 0xB8000 = .banked 0x18000) := by
  decide +kernel

theorem witness_MemoryReadsAssembleBytes : subMode awaiting ≠ .latch ∧ subMode (gen0 1) ≠ .latch := by decide +kernel

/-- The mono and the latch sub-mode of a Gen0 instance that supplies no access function, and of one that supplies all
three, at the first bytes of the linear aperture and of the banked window; and a busy engine whose apertures feed
nothing. -/
theorem witness_Gen0SubModesUseTheirFunctions :
    (route (gen0 1) 0xA0000 = .banked 0 ∧ busy (gen0 1) = false ∧ subMode (gen0 1) = .mono ∧
      (gen0 1).cfg.gen0MonoWriteGiven = false) ∧
    (route (gen0 2) 0xA0000 = .banked 0 ∧ subMode (gen0 2) = .latch ∧ (gen0 2).cfg.gen0LatchWriteGiven = false ∧
      (gen0 2).cfg.gen0LatchReadGiven = false) ∧
    (route (gen0Given 1) 0xE0000000 = .linear 0 ∧ busy (gen0Given 1) = false ∧ subMode (gen0Given 1) = .mono ∧
      (gen0Given 1).cfg.gen0MonoWriteGiven = true) ∧
    (route (gen0Given 2) 0xE0000000 = .linear 0 ∧ busy (gen0Given 2) = false ∧ subMode (gen0Given 2) = .latch ∧
      (gen0Given 2).cfg.gen0LatchWriteGiven = true ∧ (gen0Given 2).cfg.gen0LatchReadGiven = true) ∧
    (route (gen0Given 1) 0xA0000 = .banked 0 ∧ route (gen0Given 2) 0xBFFFF = .banked 0x1FFFF) ∧
    (busy { gen0Given 1 with eng := awaiting.eng, cfg := { (gen0Given 1).cfg with feedBanked := false } } = true ∧
      isFeedRoute { (gen0Given 1).cfg with feedBanked := false } (.banked 0) = false) := by decide +kernel

theorem witness_FeedIsCpuData :
    busy awaiting = true ∧ isFeedRoute awaiting.cfg (route awaiting 0xA0000) = true ∧
    busy awaitingMono = true ∧ isFeedRoute awaitingMono.cfg (route awaitingMono 0xBFFFF) = true := by decide +kernel

/-- A native start and a mono start, and a byte in no element of the rectangle. -/
theorem witness_FeedDrawsPixelsInOrder :
    (∃ c, awaiting.eng = .awaitSrc c ∧ contAt c 0 0 = c ∧ c.residual = [] ∧ c.flags.getLsbD 6 = false) ∧
    (∃ c, awaitingMono.eng = .awaitSrc c ∧ contAt c 0 0 = c ∧ c.residual = [] ∧ c.flags.getLsbD 6 = true) ∧
    Memory.wf awaiting.vram ∧
    (∀ k, k < pixelCount (snapshot awaiting) → ¬ InElem awaiting (pixelAt (snapshot awaiting) k).dstOff 4) :=
  ⟨⟨snapshot _, rfl, by decide +kernel⟩, ⟨snapshot _, rfl, by decide +kernel⟩, by decide +kernel,
    by unfold InElem; decide +kernel⟩

/-- Vector V62: a half pixel leaves the engine busy. -/
theorem witness_FeedKeepsSnapshot :
    busy (feed [0x34] { awaiting with accelBpp := .bpp16 }) = true ∧ ∃ c, awaiting.eng = .awaitSrc c :=
  ⟨by decide +kernel, _, rfl⟩

theorem witness_CpuDataCompletesBitblt :
    (∃ c, awaiting.eng = .awaitSrc c ∧ c.x = 0 ∧ c.y = 0 ∧ c.residual = [] ∧ c.flags.getLsbD 6 = false) ∧
    (∃ c, awaitingMono.eng = .awaitSrc c ∧ c.x = 0 ∧ c.y = 0 ∧ c.residual = [] ∧ c.flags.getLsbD 6 = true) :=
  ⟨⟨_, rfl, by decide +kernel⟩, ⟨_, rfl, by decide +kernel⟩⟩

theorem witness_CpuSourceAwaitsData :
    awaiting.flags.getLsbD 2 = false ∧ awaiting.flags.getLsbD 1 = false ∧ awaiting.useSrc ≠ 0 := by decide +kernel

/-- The three branches of the pattern decode, the last byte of an element. -/
theorem witness_PatternCells :
    (0x4000 : Word).getLsbD 14 = true ∧ ((0x20 : Word).getLsbD 14 = false ∧ (0x20 : Word).getLsbD 5 = true) ∧
    ((0 : Word).getLsbD 14 = false ∧ (0 : Word).getLsbD 5 = false ∧ 3 < 4) := by decide

theorem witness_BitbltIsRasterWalk :
    (4 : Word).getLsbD 2 = true ∧ ((2 : Word).getLsbD 2 = false ∧ (2 : Word).getLsbD 1 = true) ∧
    (engine.flags.getLsbD 2 = false ∧ engine.flags.getLsbD 1 = false ∧ engine.useSrc = 0) := by decide +kernel

/-- Every compass code is met by a `flags` value. -/
theorem witness_VectorsFollowCompass :
    ([0x000, 0x100, 0x200, 0x300, 0x400, 0x500, 0x600, 0x700] : List Word).map (fun f => f.extractLsb' 8 3) =
      ([0, 1, 2, 3, 4, 5, 6, 7] : List (BitVec 3)) ∧ engine.cfg.fastlineMinGen.rank ≤ engine.cfg.gen.rank := by
  decide +kernel

theorem witness_NopCommandsOnlyAbort :
    ([0x00, 0x02, 0x07, 0xFF] : List Byte).all (fun c => c != 1 && c != 3 && c != 4 && c != 5 && c != 6) = true ∧
    (Config.referenceFor .gen1 true).gen.rank < (Config.referenceFor .gen1 true).fastlineMinGen.rank := by decide +kernel

/-- One pixel at byte 0: byte 1 is in no element of it. -/
theorem witness_BitbltLeavesOtherBytes :
    Memory.wf engine.vram ∧
    ∀ k, k < pixelCount (snapshot engine) → ¬ InElem engine (pixelAt (snapshot engine) k).dstOff 1 := by
  unfold InElem
  decide +kernel

/-- One-pixel commands at byte 0: byte 1 is in no element of them. -/
theorem witness_LinesLeaveOtherBytes :
    Memory.wf engine.vram ∧
    (∀ k, k ≤ extent engine.sizeX → ¬ InElem engine (contAt (snapshot engine) k 0).dstOff 1) ∧
    (∀ k, k ≤ extent engine.sizeY →
      ¬ InElem engine
        ((lineAt (bresenhamStep engine.flags (sint16 engine.srcY) (sint16 engine.srcX)) (lineStart (snapshot engine)) k).px +
          (lineAt (bresenhamStep engine.flags (sint16 engine.srcY) (sint16 engine.srcX)) (lineStart (snapshot engine)) k).py *
            (snapshot engine).pitch) 1) ∧
    (∀ k, k ≤ extent engine.sizeY →
      ¬ InElem engine
        ((lineAt (compassStep engine.flags) (lineStart (snapshot engine)) k).px +
          (lineAt (compassStep engine.flags) (lineStart (snapshot engine)) k).py * (snapshot engine).pitch) 1) := by
  unfold InElem
  decide +kernel

/-- The example of R213: the bounds are inside, one unit beyond is outside, and Gen1 does not clip. The pattern source of
a scanline needs bit 1 of `flags` without bit 2. -/
theorem witness_ClipTestIsInclusive :
    clipOk Config.reference ⟨0, 0, 9, 9⟩ 9 0 = true ∧ clipOk Config.reference ⟨0, 0, 9, 9⟩ 10 0 = false ∧
    clipOk Config.reference ⟨0, 0, 9, 9⟩ (-1) 5 = false ∧
    clipOk (Config.referenceFor .gen1 true) ⟨0, 0, 9, 9⟩ 10 0 = true ∧ Config.reference.gen = .gen2 ∧
    (2 : Word).getLsbD 2 = false ∧ (2 : Word).getLsbD 1 = true := by decide +kernel

/-- The example of R214: at 8 bits the source 0x00 is transparent against 0x12345600 and 0x01 is not. -/
theorem witness_TransparentPixelsAreSkipped :
    Memory.wf engine.vram ∧ (0x1000 : Word).getLsbD 12 = true ∧ (0x1000 : Word).getLsbD 13 = false ∧
    AccelBpp.bpp8.trunc 0x00 = AccelBpp.bpp8.trunc 0x12345600 ∧
    AccelBpp.bpp8.trunc 0x01 ≠ AccelBpp.bpp8.trunc 0x12345600 ∧
    clipOk engine.cfg (snapshot engine).clip (snapshot engine).dx (snapshot engine).dy = true := by decide +kernel

theorem witness_PixelWritesAreElements : Memory.wf (withRow [1, 0, 2]).vram := by decide +kernel

theorem witness_ModeUpdateSetsElementSize :
    (15 : Word) = 15 ∧ ((24 : Word) ≠ 15 ∧ (24 : Word) ≠ 16 ∧ (24 : Word) ≠ 32) := by decide

/-- Both attachments of R291. -/
theorem witness_ResetGivesAttachValues :
    awaiting.cfg.isPci = true ∧ (State.attach (Config.referenceFor .gen2 false)).cfg.isPci = false := by decide +kernel

/-- An awaiting state satisfies the invariant and takes a step. -/
theorem witness_StepKeepsWellFormed :
    StateWf awaiting ∧ ∃ t, step (placeTx ⟨.memWrite, 0, 2, 0x2211, 0xA0000⟩ awaiting) = .next t := by
  refine ⟨?_, _, rfl⟩
  constructor
  case configWf => unfold ConfigWf; decide +kernel
  case awaiting =>
    rintro c ⟨⟩
    refine ⟨rfl, ?_⟩
    constructor <;> decide +kernel
  all_goals decide +kernel

/-- The route of byte `k` of a host memory write of `n` bytes, in the state the bytes before it leave. -/
def routeAfter (a : Word) (n : Nat) (v : Word) (k : Nat) (s : State) : Option Route :=
  match memWriteBytes a ((bytesOf n v).take k) s with
  | .ok u => some (route u (a + BitVec.ofNat 32 k))
  | .error _ => none

/-- A long and a word write through the accelerator aperture of a busy engine, whose last byte lies beside the command
register. -/
theorem witness_OnlyCommandsFeedsAndResetMoveEngine :
    (after (.wrRop 0) awaiting).isSome = true ∧ (0x23 : Byte) ≠ 0x24 ∧
    (∀ k, k < 4 → (0x2125 : Half) + BitVec.ofNat 16 k ≠ 0x2124) ∧
    (after (.memWrite 0xB4028 .b4 0) awaitingMapped).isSome = true ∧ NotFed awaitingMapped 0xB4028 ∧
    (∀ k, k < 4 → routeAfter 0xB4028 4 0 k awaitingMapped = some (.accel (0x28 + BitVec.ofNat 8 k))) ∧
    (after (.memWrite 0xB4022 .b2 0) awaitingMapped).isSome = true ∧ NotFed awaitingMapped 0xB4022 ∧
    (∀ k, k < 2 → routeAfter 0xB4022 2 0 k awaitingMapped = some (.accel (0x22 + BitVec.ofNat 8 k))) := by
  unfold NotFed
  decide +kernel

theorem witness_StepKeepsConfigurationAndIrq :
    awaiting.irq = false ∧ ∃ t, step (placeTx ⟨.command, 0x02, 0, 0, 0⟩ awaiting) = .next t :=
  ⟨by decide +kernel, _, rfl⟩

end Sys2Proof.Tests
end

section
/-!
PROOFS. A step is the fetch from the host's queue, then the decoder, then the instruction (R8, R73, R74): first what the
fetch gives for each shape of the queue, then one equation of `step` per outcome.
-/

namespace Sys2Proof.Machine

theorem fetchTx_of_pending_nil {s : State} (h : s.pending = []) : fetchTx s = none := by
  rw [fetchTx, h]

theorem fetchTx_of_pending_cons {s : State} {t : Tx} {ts : List Tx} (h : s.pending = t :: ts) :
    fetchTx s = some (t, { s with pending := ts }) := by
  rw [fetchTx, h]

/-- Nothing is fetched: the block does nothing on its own (R18, R280). -/
theorem step_of_fetchTx_none {s : State} (h : fetchTx s = none) : step s = .next s := by
  rw [step, h]

theorem step_of_decode_ok {s s' : State} {t : Tx} {i : Instr} (hf : fetchTx s = some (t, s'))
    (hd : decode t = .ok i) : step s = exec i s' := by
  simp only [step, hf, hd]

theorem step_of_decode_error {s s' : State} {t : Tx} {e : DecodeError} (hf : fetchTx s = some (t, s'))
    (hd : decode t = .error e) : step s = .refused (.undecodable e) := by
  simp only [step, hf, hd]

/-- Settles O4: the shape of the queue says what is fetched, and the decoder's answer what the step is. -/
theorem stepRunsDecodedTransaction : Obligations.StepRunsDecodedTransaction := by
  unfold Obligations.StepRunsDecodedTransaction
  refine ⟨?decoded, ?idle, ?undecodable⟩
  case decoded =>
    intro s t ts i hp hd
    exact step_of_decode_ok (fetchTx_of_pending_cons hp) hd
  case idle =>
    intro s hp
    exact step_of_fetchTx_none (fetchTx_of_pending_nil hp)
  case undecodable =>
    intro s t ts e hp hd
    exact step_of_decode_error (fetchTx_of_pending_cons hp) hd

end Sys2Proof.Machine
end

section
/-!
PROOFS. Every row of the opcode table is one of a few host acts (notes/assumptions/7.md, 8.md): first what the window
offsets, the commands and the ports of the rows reach, then one inversion of `exec`.
-/

namespace Sys2Proof.Machine

/-! ## Window offsets -/

theorem windowReg_eq_command_iff (o : Byte) : windowReg o = .command ↔ o = 0x24 := by decide +revert

theorem windowReg_of_undecodedOffset (o : Byte) : undecodedOffset o = true → windowReg o = .undecoded := by
  decide +revert

/-- The offsets of the 32-bit registers, lane by lane (R94, R95). -/
theorem windowReg_lane32 (l : BitVec 2) :
    windowReg (((0x28 : Half) ||| l.setWidth 16).setWidth 8) = .flags l ∧
    windowReg (((0x2C : Half) ||| l.setWidth 16).setWidth 8) = .fgCol l ∧
    windowReg (((0x30 : Half) ||| l.setWidth 16).setWidth 8) = .bgCol l ∧
    windowReg (((0x44 : Half) ||| l.setWidth 16).setWidth 8) = .style l ∧
    windowReg (((0x68 : Half) ||| l.setWidth 16).setWidth 8) = .ckey l ∧
    windowReg (((0x78 : Half) ||| l.setWidth 16).setWidth 8) = .fgCol l ∧
    windowReg (((0x7C : Half) ||| l.setWidth 16).setWidth 8) = .bgCol l := by decide +revert

/-- The offsets of the 16-bit registers, lane by lane (R94). -/
theorem windowReg_lane16 (l : BitVec 1) :
    windowReg (((0x38 : Half) ||| l.setWidth 16).setWidth 8) = .dstX l ∧
    windowReg (((0x3A : Half) ||| l.setWidth 16).setWidth 8) = .dstY l ∧
    windowReg (((0x3C : Half) ||| l.setWidth 16).setWidth 8) = .srcX l ∧
    windowReg (((0x3E : Half) ||| l.setWidth 16).setWidth 8) = .srcY l ∧
    windowReg (((0x40 : Half) ||| l.setWidth 16).setWidth 8) = .sizeX l ∧
    windowReg (((0x42 : Half) ||| l.setWidth 16).setWidth 8) = .sizeY l ∧
    windowReg (((0x48 : Half) ||| l.setWidth 16).setWidth 8) = .clipLeft l ∧
    windowReg (((0x4A : Half) ||| l.setWidth 16).setWidth 8) = .clipTop l ∧
    windowReg (((0x4C : Half) ||| l.setWidth 16).setWidth 8) = .clipRight l ∧
    windowReg (((0x4E : Half) ||| l.setWidth 16).setWidth 8) = .clipBottom l := by decide +revert

theorem windowReg_patternCell (j : BitVec 7) :
    windowReg (((0x80 : Half) ||| j.setWidth 16).setWidth 8) = .pattern j := by decide +revert

/-- A byte carried in a wider field comes back whole. -/
theorem setWidth_setWidth_byte (b : Byte) {w : Nat} (h : 8 ≤ w) : (b.setWidth w).setWidth 8 = b := by
  rw [BitVec.setWidth_setWidth_of_le _ h, BitVec.setWidth_eq]

theorem encodePort_kind_ne (p : Half) (op : PortOp) :
    (encodePort p op).kind ≠ .windowWrite ∧ (encodePort p op).kind ≠ .command ∧
    (encodePort p op).kind ≠ .commandFlags := by
  cases op <;> simp [encodePort]

/-- A window byte row is the byte write at the offset of its record (R140). -/
theorem exec_of_windowWrite {i : Instr} (hk : (encode i).kind = .windowWrite) (s : State) :
    exec i s = .next (regWriteByte ((encode i).key.setWidth 8) ((encode i).value.setWidth 8) s) := by
  cases i with
  | wrCommand b | wrRop b =>
    simp only [encode, encodeWrite, setWidth_setWidth_byte b (w := 32) (by decide)]
    rfl
  | wrFlags l b | wrFgCol l b | wrBgCol l b | wrStyle l b | wrCkey l b | wrFgColMirror l b | wrBgColMirror l b =>
    simp only [encode, encodeWrite, setWidth_setWidth_byte b (w := 32) (by decide), regWriteByte, windowReg_lane32 l]
    rfl
  | wrDstX l b | wrDstY l b | wrSrcX l b | wrSrcY l b | wrSizeX l b | wrSizeY l b | wrClipLeft l b | wrClipTop l b
  | wrClipRight l b | wrClipBottom l b =>
    simp only [encode, encodeWrite, setWidth_setWidth_byte b (w := 32) (by decide), regWriteByte, windowReg_lane16 l]
    rfl
  | wrPattern j b =>
    simp only [encode, encodeWrite, setWidth_setWidth_byte b (w := 32) (by decide), regWriteByte,
      windowReg_patternCell j]
    rfl
  | wrUndecoded o b =>
    simp only [encode, encodeWrite, setWidth_setWidth_byte b (w := 32) (by decide),
      setWidth_setWidth_byte o (w := 16) (by decide)]
    show execWrUndecoded o b s = _
    unfold execWrUndecoded
    split
    · rename_i ho
      rw [regWriteByte, windowReg_of_undecodedOffset o ho]
    · rfl
  | portSeqIdx op | portSeqData op | portGdcIdx op | portGdcData op | portCrtcIdx op | portCrtcData op
  | portWbank op | portRbank op => exact absurd hk (encodePort_kind_ne _ op).1
  | _ => cases hk

/-! ## Commands -/

theorem bitbltStart_of_srcDisp {c : Cont} (h : srcDisp c.flags = true) (s : State) :
    bitbltStart c s = bitbltDisplay c s := by
  rw [bitbltStart, if_pos h]

theorem bitbltStart_of_srcPat {c : Cont} (hd : srcDisp c.flags = false) (hp : srcPat c.flags = true) (s : State) :
    bitbltStart c s = bitbltPattern c s := by
  simp [bitbltStart, hd, hp]

/-- The CPU is the source: the ROP's use of it decides between the zero stream and the wait for data (R230). -/
theorem bitbltStart_of_cpu {c : Cont} (hd : srcDisp c.flags = false) (hp : srcPat c.flags = false) (s : State) :
    bitbltStart c s = if s.useSrc = 0 then bitbltZeroStream c s else bitbltAwait c s := by
  simp [bitbltStart, hd, hp]

theorem commandWrite_of_not_named {code : Byte} (h : namedCommandCode code = false) (s : State) :
    commandWrite code s = acceptCommand code s := by
  simp only [namedCommandCode, Bool.or_eq_false_iff, beq_eq_false_iff_ne] at h
  obtain ⟨⟨⟨⟨h1, h3⟩, h4⟩, h5⟩, h6⟩ := h
  rw [commandWrite, startCommand, acceptCommand_command, if_neg h1, if_neg h3, if_neg h4, if_neg h5, if_neg h6]

/-- A command row is the command byte its record carries (R143, R200). -/
theorem exec_of_command {i : Instr} (hk : (encode i).kind = .command ∨ (encode i).kind = .commandFlags) (s : State) :
    exec i s = .next (commandWrite ((encode i).key.setWidth 8) s) := by
  cases i with
  | bitblt | scanline | bresenham | shortvec => rfl
  | bitbltDisplay =>
    exact ite_eq_right_iff.mpr fun h => congrArg _ (bitbltStart_of_srcDisp h (acceptCommand 0x01 s)).symm
  | bitbltPattern =>
    refine ite_eq_right_iff.mpr fun h => ?_
    simp only [Bool.and_eq_true, Bool.not_eq_true'] at h
    obtain ⟨hdisp, hpat⟩ := h
    exact congrArg _ (bitbltStart_of_srcPat hdisp hpat (acceptCommand 0x01 s)).symm
  | bitbltCpuNative | bitbltCpuMono =>
    refine ite_eq_right_iff.mpr fun h => ?_
    simp only [Bool.and_eq_true, Bool.not_eq_true', bne_iff_ne] at h
    obtain ⟨⟨⟨hdisp, hpat⟩, -⟩, huse⟩ := h
    exact congrArg _ ((bitbltStart_of_cpu hdisp hpat (acceptCommand 0x01 s)).trans (if_neg huse)).symm
  | bitbltZeroStream =>
    refine ite_eq_right_iff.mpr fun h => ?_
    simp only [Bool.and_eq_true, Bool.not_eq_true', beq_iff_eq] at h
    obtain ⟨⟨hdisp, hpat⟩, huse⟩ := h
    exact congrArg _ ((bitbltStart_of_cpu hdisp hpat (acceptCommand 0x01 s)).trans (if_pos huse)).symm
  | fastline => exact (apply_ite Host.Outcome.next _ _ _).symm
  | nopCmd code =>
    show execNopCmd code s = .next (commandWrite ((code.setWidth 16).setWidth 8) s)
    rw [setWidth_setWidth_byte code (by decide)]
    cases hn : namedCommandCode code with
    | true => rw [execNopCmd, if_pos hn]
    | false => rw [execNopCmd, hn, commandWrite_of_not_named hn]; rfl
  | portSeqIdx op | portSeqData op | portGdcIdx op | portGdcData op | portCrtcIdx op | portCrtcData op
  | portWbank op | portRbank op => exact (hk.elim (encodePort_kind_ne _ op).2.1 (encodePort_kind_ne _ op).2.2).elim
  | _ => rcases hk with hk | hk <;> cases hk

/-! ## The acts -/

/-- The row FEED is the host memory write, CPU data or not (R180, R236). -/
theorem exec_feed (a : Word) (n : Width) (v : Word) (s : State) :
    exec (.feed a n v) s = outcomeOf (memWrite a n v s) :=
  ite_eq_right_iff.mpr fun hfed => by rw [memWrite, if_pos hfed]; rfl

/-- The acts of the host and its collaborators that instructions are made of, each with the state it leads to. -/
inductive Act (s : State) : State → Prop where
  | windowByte (o b : Byte) : Act s (regWriteByte o b s)
  | commandWord (v : Word) : Act s (commandRopWrite v s)
  | portByte (p : VgaPort) (b : Byte) : Act s (vgaWriteByte p b s)
  | ioWrite (q : Half) (n : Width) (v : Word) : Act s (ioWrite q n v s)
  | memWrite (a : Word) (n : Width) (v : Word) {t : State} (h : memWrite a n v s = .ok t) : Act s t
  | read (l : Vector Byte 16) (v : Word) (d : Nat) : Act s { s with latch := l, readData := v, draws := d }
  | modeUpdate (d : AccelBpp) (r : Word) : Act s { s with rowOffset := r, accelBpp := d }
  | pciEvent (h : s.cfg.isPci = true) (e : Bool) (l m : Word) :
      Act s { s with pciMemEn := e, linearBase := l, mmioBase := m }
  | clearDirty (page : Nat) : Act s { s with dirty := cleanPage s.dirty page }
  | reset : Act s { State.attach s.cfg with readData := s.readData, draws := s.draws, pending := s.pending }
  | nothing : Act s s

theorem Act.of_eq {s t u : State} {r : Host.Outcome State Fault Refusal} (ha : Act s u) (hu : r = .next u)
    (ht : r = .next t) : Act s t := by
  rw [hu] at ht
  cases ht
  exact ha

/-- A port row is its port's byte write, or its read (R155, R156). -/
theorem Act.portRow {s t : State} {f : PortOp → Host.Outcome State Fault Refusal} {op : PortOp} (p : VgaPort)
    (h : f op = .next t) (hw : ∀ b, f (.write b) = .next (vgaWriteByte p b s))
    (hr : f .read = .next (Machine.portRead p s)) : Act s t := by
  cases op with
  | write b => exact .of_eq (.portByte p b) (hw b) h
  | read => exact .of_eq (.read s.latch _ _) hr h

/-- What an instruction that goes on has done: one act. -/
theorem exec_act {i : Instr} {s t : State} (h : exec i s = .next t) : Act s t := by
  cases i with
  | bitblt | scanline | bresenham | shortvec | fastline | nopCmd =>
    exact .of_eq (.windowByte 0x24 _) (exec_of_command (.inl rfl) s) h
  | bitbltDisplay | bitbltPattern | bitbltCpuNative | bitbltCpuMono | bitbltZeroStream =>
    exact .of_eq (.windowByte 0x24 _) (exec_of_command (.inr rfl) s) h
  | wrCommand | wrRop | wrFlags | wrFgCol | wrBgCol | wrDstX | wrDstY | wrSrcX | wrSrcY | wrSizeX | wrSizeY | wrStyle
  | wrClipLeft | wrClipTop | wrClipRight | wrClipBottom | wrCkey | wrFgColMirror | wrBgColMirror | wrPattern
  | wrUndecoded => exact .of_eq (.windowByte _ _) (exec_of_windowWrite rfl s) h
  | wrCommandRop v => cases h; exact .commandWord v
  | rdWindow | ioRead => cases h; exact .read s.latch _ _
  | rdUndecoded o =>
    change execRdUndecoded o s = _ at h
    unfold execRdUndecoded at h
    split at h <;> cases h <;> exact .read s.latch _ _
  | ioWrite p n v => cases h; exact .ioWrite p n v
  | memWrite a n v => exact .memWrite a n v (outcomeOf_next h)
  | feed a n v => exact .memWrite a n v (outcomeOf_next (exec_feed a n v s ▸ h))
  | memRead a n =>
    rw [memRead_frame (outcomeOf_next h)]
    exact .read _ _ _
  | portSeqIdx op => exact .portRow (f := fun op => exec (.portSeqIdx op) s) .seqIdx h (fun _ => rfl) rfl
  | portSeqData op => exact .portRow (f := fun op => exec (.portSeqData op) s) .seqData h (fun _ => rfl) rfl
  | portGdcIdx op => exact .portRow (f := fun op => exec (.portGdcIdx op) s) .gdcIdx h (fun _ => rfl) rfl
  | portGdcData op => exact .portRow (f := fun op => exec (.portGdcData op) s) .gdcData h (fun _ => rfl) rfl
  | portCrtcIdx op => exact .portRow (f := fun op => exec (.portCrtcIdx op) s) .crtcIdx h (fun _ => rfl) rfl
  | portCrtcData op => exact .portRow (f := fun op => exec (.portCrtcData op) s) .crtcData h (fun _ => rfl) rfl
  | portWbank op => exact .portRow (f := fun op => exec (.portWbank op) s) .wbank h (fun _ => rfl) rfl
  | portRbank op => exact .portRow (f := fun op => exec (.portRbank op) s) .rbank h (fun _ => rfl) rfl
  | modeUpdate d r => cases h; exact .modeUpdate (accelBppOf d) r
  | pciSetMemEnable e =>
    change execPciSetMemEnable e s = _ at h
    unfold execPciSetMemEnable at h
    split at h <;> cases h
    · exact .pciEvent ‹_› e s.linearBase s.mmioBase
    · exact .nothing
  | pciSetBar k base =>
    change execPciSetBar k base s = _ at h
    unfold execPciSetBar at h
    split_ifs at h with hpci <;> cases h
    · exact .pciEvent hpci s.pciMemEn base s.mmioBase
    · exact .pciEvent hpci s.pciMemEn s.linearBase base
    · exact .nothing
    · exact .nothing
  | clearDirty page => cases h; exact .clearDirty page.toNat
  | reset => cases h; exact .reset

end Sys2Proof.Machine
end

section
/-!
PROOFS. The continuation under a feed: what of it CPU data can change (R43, R45, R298), and that the data are one stream
taken byte by byte (R220, R221).
-/

namespace Sys2Proof.Machine

/-! ## Properties of a continuation that CPU data keep -/

/-- A property of continuations that the step to the next pixel keeps, and a change of the bytes held while fewer are
held than the widest element has. -/
structure KeptByFeed (Q : Cont → Prop) : Prop where
  advance : ∀ {c d}, Q c → Machine.advance c = some d → Q d
  residual : ∀ {c r}, Q c → r.length < 4 → Q { c with residual := r }

theorem feedPixels_keepsCont {Q : Cont → Prop} (hQ : KeptByFeed Q) {ps : List Word} {c d : Cont} {s : State} (h : Q c)
    (hd : (feedPixels ps c s).2 = some d) : Q d := by
  induction ps generalizing c s with
  | nil => cases hd; exact h
  | cons p ps ih =>
    unfold feedPixels at hd
    split at hd
    · cases hd
    · exact ih (hQ.advance h ‹_›) hd

theorem AccelBpp.bytes_pos (d : AccelBpp) : 0 < d.bytes := by cases d <;> decide

theorem AccelBpp.bytes_le (d : AccelBpp) : d.bytes ≤ 4 := by cases d <;> decide

theorem feedByte_keepsCont {Q : Cont → Prop} (hQ : KeptByFeed Q) {b : Byte} {c d : Cont} {s : State} (h : Q c)
    (hd : (feedByte b c s).2 = some d) : Q d := by
  unfold feedByte at hd
  split at hd
  · exact feedPixels_keepsCont hQ h hd
  · have hshort := takePixels_short s.accelBpp.bytes_pos (c.residual ++ [b]).length (c.residual ++ [b]) le_rfl
    exact feedPixels_keepsCont hQ (hQ.residual h (Nat.lt_of_lt_of_le hshort s.accelBpp.bytes_le)) hd

theorem feedBytes_cons_none {b : Byte} {bs : List Byte} {c : Cont} {s : State} (h : (feedByte b c s).2 = none) :
    feedBytes (b :: bs) c s = feedByte b c s := by
  rw [feedBytes]
  split <;> simp_all

theorem feedBytes_cons_some {b : Byte} {bs : List Byte} {c d : Cont} {s : State} (h : (feedByte b c s).2 = some d) :
    feedBytes (b :: bs) c s = feedBytes bs d (feedByte b c s).1 := by
  rw [feedBytes]
  split <;> simp_all

theorem feedBytes_keepsCont {Q : Cont → Prop} (hQ : KeptByFeed Q) {bs : List Byte} {c d : Cont} {s : State} (h : Q c)
    (hd : (feedBytes bs c s).2 = some d) : Q d := by
  induction bs generalizing c s with
  | nil => cases hd; exact h
  | cons b bs ih =>
    cases hb : (feedByte b c s).2 with
    | none =>
      rw [feedBytes_cons_none hb, hb] at hd
      cases hd
    | some e =>
      rw [feedBytes_cons_some hb] at hd
      exact ih (feedByte_keepsCont hQ h hb) hd

/-- Two continuations that differ at most in the cursors and the bytes held: the same snapshot and pattern (R43, R45). -/
def SameSnapshot (c d : Cont) : Prop :=
  d = { c with
    x := d.x, y := d.y, srcOff := d.srcOff, dstOff := d.dstOff, rowSrc := d.rowSrc, rowDst := d.rowDst, dx := d.dx,
    dy := d.dy, residual := d.residual }

theorem SameSnapshot.refl (c : Cont) : SameSnapshot c c := rfl

theorem SameSnapshot.trans {c d e : Cont} (h : SameSnapshot c d) (k : SameSnapshot d e) : SameSnapshot c e := by
  rw [SameSnapshot] at *
  rw [k, h]

theorem advance_sameSnapshot {c d : Cont} (h : advance c = some d) : SameSnapshot c d := by
  unfold advance at h
  split at h
  · split at h
    · cases h
    · cases h; rfl
  · cases h; rfl

theorem sameSnapshot_keptByFeed (c : Cont) : KeptByFeed (SameSnapshot c) where
  advance h ha := h.trans (advance_sameSnapshot ha)
  residual h _ := h.trans rfl

/-! ## Feeds join -/

/-- Drawing does not look at the engine state. -/
theorem drawPixel_setEng (p : Word) (c : Cont) (s : State) (e : Eng) :
    drawPixel p c { s with eng := e } = { drawPixel p c s with eng := e } := by
  unfold drawPixel
  split <;> rfl

theorem feedPixels_setEng (ps : List Word) (c : Cont) (s : State) (e : Eng) :
    feedPixels ps c { s with eng := e } = ({ (feedPixels ps c s).1 with eng := e }, (feedPixels ps c s).2) := by
  induction ps generalizing c s with
  | nil => rfl
  | cons p ps ih =>
    simp only [feedPixels, drawPixel_setEng]
    cases advance c with
    | none => rfl
    | some d => exact ih d _

theorem feedByte_setEng (b : Byte) (c : Cont) (s : State) (e : Eng) :
    feedByte b c { s with eng := e } = ({ (feedByte b c s).1 with eng := e }, (feedByte b c s).2) := by
  unfold feedByte
  split
  · exact feedPixels_setEng _ _ s e
  · exact feedPixels_setEng _ _ s e

theorem feedBytes_setEng (bs : List Byte) (c : Cont) (s : State) (e : Eng) :
    feedBytes bs c { s with eng := e } = ({ (feedBytes bs c s).1 with eng := e }, (feedBytes bs c s).2) := by
  induction bs generalizing c s with
  | nil => rfl
  | cons b bs ih =>
    have hb := feedByte_setEng b c s e
    cases hd : (feedByte b c s).2 with
    | none => rw [feedBytes_cons_none hd, feedBytes_cons_none (by rw [hb, hd]), hb]
    | some d => rw [feedBytes_cons_some hd, feedBytes_cons_some (by rw [hb, hd]), hb, ih]

/-- While the first bytes leave pixels to draw, the bytes after them go on where those stopped (R221). -/
theorem feedBytes_append {bs cs : List Byte} {c d : Cont} {s : State} (h : (feedBytes bs c s).2 = some d) :
    feedBytes (bs ++ cs) c s = feedBytes cs d (feedBytes bs c s).1 := by
  induction bs generalizing c s with
  | nil => cases h; rfl
  | cons b bs ih =>
    rw [List.cons_append]
    cases hb : (feedByte b c s).2 with
    | none =>
      rw [feedBytes_cons_none hb, hb] at h
      cases h
    | some e =>
      rw [feedBytes_cons_some hb] at h ⊢
      rw [feedBytes_cons_some hb, ih h]

/-- A feed leaves the engine idle when the rectangle is done, else awaiting data with the new continuation (R222). -/
theorem feed_eng {s : State} {c : Cont} (h : s.eng = .awaitSrc c) (bs : List Byte) :
    (feed bs s).eng = engAfter (feedBytes bs c s).2 := by
  rw [feed_awaiting h]

/-- A busy engine after a feed was busy before it, and has a continuation left. -/
theorem feed_busy {s : State} {bs : List Byte} (h : busy (feed bs s) = true) :
    ∃ c d, s.eng = .awaitSrc c ∧ (feedBytes bs c s).2 = some d := by
  cases hs : s.eng with
  | idle => simp [feed_idle hs, busy, hs] at h
  | awaitSrc c =>
    cases hd : (feedBytes bs c s).2 with
    | none => simp [busy, feed_eng hs, hd, engAfter] at h
    | some d => exact ⟨c, d, rfl, hd⟩

theorem feed_append {s : State} {bs : List Byte} (h : busy (feed bs s) = true) (cs : List Byte) :
    feed (bs ++ cs) s = feed cs (feed bs s) := by
  obtain ⟨c, d, hs, hd⟩ := feed_busy h
  have he : (feed bs s).eng = .awaitSrc d := by rw [feed_eng hs, hd, engAfter]
  rw [feed_awaiting he, feed_awaiting hs (bs ++ cs), feedBytes_append hd, feed_awaiting hs bs,
    feedBytes_setEng cs d (feedBytes bs c s).1 (engAfter _)]

/-- Settles O38: the step to the next pixel and the bytes held keep the snapshot, and a feed is a fold over its bytes. -/
theorem feedKeepsSnapshot : Obligations.FeedKeepsSnapshot := by
  unfold Obligations.FeedKeepsSnapshot
  refine ⟨?keeps, fun s bs cs h => feed_append h cs⟩
  case keeps =>
    intro s c bs hs
    rw [feed_eng hs]
    cases hd : (feedBytes bs c s).2 with
    | none => exact .inl rfl
    | some d =>
      have hsame : SameSnapshot c d := feedBytes_keepsCont (sameSnapshot_keptByFeed c) (.refl c) hd
      exact .inr ⟨d, rfl, hsame⟩

end Sys2Proof.Machine
end

section
/-!
PROOFS. The invariant of the block, kept by each act of the host (R24, R35, R38, R39, R41, R146, R274).
-/

namespace Sys2Proof.Machine

/-! ## Video memory and the dirty bitmap -/

/-- The page of a byte inside video memory exists (R39). -/
theorem page_lt {z : VramSize} {a : Nat} (h : a < z.bytes) : a / 4096 < z.bytes / 4096 := by
  cases z <;> simp only [VramSize.bytes] at * <;> omega

theorem StateWf.vramWrite {s : State} (h : StateWf s) {a : Nat} (ha : a < s.cfg.vramSize.bytes) (b : Byte) :
    StateWf (vramWrite s a b) :=
  { h with
    vramWf := Memory.wf_write h.vramWf a b
    vramInside := by
      intro c hc
      rcases Memory.mem_write hc with ⟨rfl, -⟩ | hc
      · exact ha
      · exact h.vramInside c hc
    dirtyRising := markPage_rising h.dirtyRising _
    dirtyInside := by
      intro p hp
      rcases mem_markPage.mp hp with rfl | hp
      · exact page_lt ha
      · exact h.dirtyInside p hp }

/-- A pixel lies inside video memory, so drawing keeps the invariant (R67). -/
theorem stateWf_keptByPixels : KeptByPixels StateWf := by
  intro s off v h
  have hin := elemAddr_inside s off
  have hstart : elemAddr s off < s.cfg.vramSize.bytes := by
    have hpos := s.accelBpp.bytes_pos
    omega
  exact
    { h with
      vramWf := Memory.wf_writeBytes h.vramWf _ _
      vramInside := by
        intro c hc
        rcases Memory.mem_writeBytes hc with ⟨-, hc⟩ | hc
        · rw [bytesOf_length] at hc
          exact Nat.lt_of_lt_of_le hc hin
        · exact h.vramInside c hc
      dirtyRising := markPage_rising h.dirtyRising _
      dirtyInside := by
        intro p hp
        rcases mem_markPage.mp hp with rfl | hp
        · exact page_lt hstart
        · exact h.dirtyInside p hp }

/-! ## Commands -/

/-- A BitBLT draws, or its source is the CPU, the ROP reads it and the command suspends (R230). -/
theorem bitbltStart_cases {P : State → Prop} (hP : KeptByPixels P) (c : Cont) {s : State} (h : P s) :
    P (bitbltStart c s) ∨
    srcDisp c.flags = false ∧ srcPat c.flags = false ∧ s.useSrc ≠ 0 ∧ bitbltStart c s = bitbltAwait c s := by
  cases hd : srcDisp c.flags with
  | true => rw [bitbltStart_of_srcDisp hd]; exact .inl (bltLoop_keeps hP _ _ _ h)
  | false =>
    cases hp : srcPat c.flags with
    | true => rw [bitbltStart_of_srcPat hd hp]; exact .inl (bltLoop_keeps hP _ _ _ h)
    | false =>
      rw [bitbltStart_of_cpu hd hp]
      by_cases hu : s.useSrc = 0
      · rw [if_pos hu]
        exact .inl (bltLoop_keeps hP _ _ _ h)
      · exact .inr ⟨rfl, rfl, hu, if_neg hu⟩

/-- A command draws, or it is the BitBLT that suspends. -/
theorem startCommand_cases {P : State → Prop} (hP : KeptByPixels P) {s : State} (h : P s) :
    P (startCommand s) ∨
    s.command = 0x01 ∧ srcDisp s.flags = false ∧ srcPat s.flags = false ∧ s.useSrc ≠ 0 ∧
      startCommand s = bitbltAwait (snapshot s) s := by
  unfold startCommand
  split
  · exact (bitbltStart_cases hP (snapshot s) h).imp_right fun hawait => ⟨‹_›, hawait⟩
  · left
    split
    · exact scanlineLoop_keeps hP _ _ h
    · split
      · exact lineLoop_keeps hP _ _ _ _ h
      · split
        · exact lineLoop_keeps hP _ _ _ _ h
        · split
          · split
            · exact lineLoop_keeps hP _ _ _ _ h
            · exact h
          · exact h

/-- The continuation of a CPU-source BitBLT whose ROP reads the source starts inside its rectangle (R41, R211). -/
theorem snapshot_contWf {s : State} (hd : srcDisp s.flags = false) (hp : srcPat s.flags = false)
    (hu : useSrcOf s.rop ≠ 0) : ContWf (snapshot s) where
  cpuSource := ⟨hd, hp⟩
  ropReads := hu
  xRange := Nat.zero_le _
  yRange := Nat.zero_le _
  residualShort := Nat.zero_lt_succ _

theorem StateWf.commandWrite {s : State} (h : StateWf s) (b : Byte) : StateWf (commandWrite b s) := by
  have ha : StateWf (acceptCommand b s) := { h with awaiting := fun c hc => by cases hc }
  rcases startCommand_cases stateWf_keptByPixels ha with hdrawn | ⟨hcmd, hd, hp, hu, heq⟩
  · exact hdrawn
  · show StateWf (startCommand (acceptCommand b s))
    rw [heq]
    refine { ha with awaiting := fun c hc => ?_ }
    cases hc
    exact ⟨hcmd, snapshot_contWf hd hp (ha.useSrcDerived ▸ hu)⟩

/-! ## Register and port bytes -/

theorem StateWf.regWriteByte {s : State} (h : StateWf s) (o b : Byte) : StateWf (regWriteByte o b s) := by
  unfold Machine.regWriteByte
  cases windowReg o with
  | command => exact h.commandWrite b
  | rop => exact { h with useSrcDerived := rfl }
  | srcX => exact { h with srcXExtended := sx13_idem _ }
  | srcY => exact { h with srcYExtended := sx13_idem _ }
  | sizeX => exact { h with sizeXExtended := sx14_idem _ }
  | _ => exact { h with }

/-- The atomic command word is the byte of `rop`, then the byte of the command register (R142). -/
theorem commandRopWrite_eq_bytes (v : Word) (s : State) :
    commandRopWrite v s = regWriteByte 0x24 (byteAt v 0) (regWriteByte 0x27 (byteAt v 3) s) := rfl

theorem StateWf.commandRopWrite {s : State} (h : StateWf s) (v : Word) : StateWf (commandRopWrite v s) := by
  rw [commandRopWrite_eq_bytes]
  exact (h.regWriteByte _ _).regWriteByte _ _

theorem StateWf.vgaWriteByte {s : State} (h : StateWf s) (p : VgaPort) (b : Byte) : StateWf (vgaWriteByte p b s) := by
  rw [vgaWriteByte_frame]
  exact { h with }

/-! ## CPU data -/

theorem contWf_keptByFeed : KeptByFeed ContWf where
  advance h ha := h.advance ha
  residual h hr := { h with residualShort := hr }

theorem StateWf.feed {s : State} (h : StateWf s) (bs : List Byte) : StateWf (feed bs s) := by
  cases hs : s.eng with
  | idle => rwa [feed_idle hs]
  | awaitSrc c =>
    obtain ⟨hcmd, hc⟩ := h.awaiting c hs
    have hpix : PixelsOnly s (feedBytes bs c s).1 := feedBytes_keeps (pixelsOnly_kept s) bs c (.refl s)
    have hwf : StateWf (feedBytes bs c s).1 := feedBytes_keeps stateWf_keptByPixels bs c h
    rw [feed_awaiting hs]
    refine { hwf with awaiting := fun d hd => ⟨?_, ?_⟩ }
    · show (feedBytes bs c s).1.command = 0x01
      rw [hpix]
      exact hcmd
    · cases he : (feedBytes bs c s).2 with
      | none => rw [he] at hd; cases hd
      | some e =>
        rw [he] at hd
        cases hd
        exact feedBytes_keepsCont contWf_keptByFeed hc he

/-! ## Every act, every instruction, every step -/

/-- The state of device attach satisfies the invariant (R291). -/
theorem StateWf.attach {cfg : Config} (h : ConfigWf cfg) : StateWf (State.attach cfg) where
  configWf := h
  vramWf := h.1
  vramInside := h.2
  dirtyRising := .nil
  dirtyInside := by simp [State.attach]
  useSrcDerived := show 0 = useSrcOf 0 by decide
  srcXExtended := show sx13 0 = 0 by decide
  srcYExtended := show sx13 0 = 0 by decide
  sizeXExtended := show sx14 0 = 0 by decide
  busFixed hpci := by
    have hoff : cfg.isPci = false := hpci
    simp [State.attach, hoff]
  irqLow := rfl
  awaiting c hc := by cases hc

theorem StateWf.act {s t : State} (h : StateWf s) (ha : Act s t) : StateWf t := by
  have hreg : ∀ o b s, StateWf s → StateWf (Machine.regWriteByte o b s) := fun o b _ hs => hs.regWriteByte o b
  have hport : ∀ p b s, StateWf s → StateWf (Machine.vgaWriteByte p b s) := fun p b _ hs => hs.vgaWriteByte p b
  have hword : ∀ v s, StateWf s → StateWf (Machine.commandRopWrite v s) := fun v _ hs => hs.commandRopWrite v
  cases ha with
  | windowByte o b => exact h.regWriteByte o b
  | commandWord v => exact h.commandRopWrite v
  | portByte p b => exact h.vgaWriteByte p b
  | ioWrite q n v => exact ioWrite_keeps hreg hport hword q n v h
  | memWrite a n v ht =>
    exact memWrite_keeps (fun _ _ b hin hs => hs.vramWrite hin b) hreg hport hword (fun bs _ hs => hs.feed bs) h ht
  | read => exact { h with }
  | modeUpdate => exact { h with }
  | pciEvent hpci => exact { h with busFixed := fun hoff => by rw [hpci] at hoff; cases hoff }
  | clearDirty page =>
    exact
      { h with
        dirtyRising := cleanPage_rising h.dirtyRising page
        dirtyInside := fun p hp => h.dirtyInside p (mem_cleanPage.mp hp).1 }
  | reset => exact { StateWf.attach h.configWf with }
  | nothing => exact h

/-- Settles O58: a step takes the next record from the queue and performs one act, and every act keeps the invariant. -/
theorem stepKeepsWellFormed : Obligations.StepKeepsWellFormed := by
  unfold Obligations.StepKeepsWellFormed
  intro s t h hst
  rcases step_cases hst with ⟨-, rfl⟩ | ⟨tx, ts, i, -, -, hexec⟩
  · exact h
  · have hfetched : StateWf { s with pending := ts } := { h with }
    exact hfetched.act (exec_act hexec)

end Sys2Proof.Machine
end

section
/-!
PROOFS. What moves the engine: a byte that reaches the command register does, every other byte leaves the engine state
alone whatever path it takes (R41, R183, R260). And the mode update, which sets the mode inputs only (R31).
-/

namespace Sys2Proof.Machine

/-! ## Bytes -/

theorem regWriteByte_eng {o : Byte} (ho : o ≠ 0x24) (b : Byte) (s : State) : (regWriteByte o b s).eng = s.eng := by
  rcases regWriteByte_cases o b s with ⟨hcmd, -⟩ | hframe
  · exact absurd ((windowReg_eq_command_iff o).mp hcmd) ho
  · rw [hframe]

theorem vgaWriteByte_eng (p : VgaPort) (b : Byte) (s : State) : (vgaWriteByte p b s).eng = s.eng := by
  rw [vgaWriteByte_frame]

/-- The window at 0x2100 reaches the command register at 0x2124 only (R92). -/
theorem windowOffset_ne_command {q : Half} (hq : q ≠ 0x2124) (hlo : 0x2100 ≤ q.toNat) (hhi : q.toNat ≤ 0x21FF) :
    (q - 0x2100).setWidth 8 ≠ (0x24 : Byte) := by
  intro he
  apply hq
  have := congrArg BitVec.toNat he
  bv_omega

theorem ioWriteByte_eng {q : Half} (hq : q ≠ 0x2124) (b : Byte) (s : State) : (ioWriteByte q b s).eng = s.eng := by
  unfold ioWriteByte
  split
  · rename_i hport
    obtain ⟨hlo, hhi⟩ := of_decide_eq_true hport
    exact regWriteByte_eng (windowOffset_ne_command hq (by omega) hhi) b s
  · split
    · exact vgaWriteByte_eng _ b s
    · rfl

theorem mmioWriteByte_eng {m : Half} (hm : m ≠ 0x2124) (b : Byte) (s : State) : (mmioWriteByte m b s).eng = s.eng := by
  unfold mmioWriteByte
  split
  · rename_i hwin
    obtain ⟨hlo, hhi⟩ := of_decide_eq_true hwin
    exact regWriteByte_eng (windowOffset_ne_command hm hlo hhi) b s
  · split
    · exact vgaWriteByte_eng _ b s
    · rfl

theorem memWriteByte_eng {a : Word} {b : Byte} {s t : State} (hr : isCommandWord (route s a) = false)
    (h : memWriteByte a b s = .ok t) : t.eng = s.eng := by
  have hfb : ∀ {i}, i < s.cfg.vramSize.bytes → fbWrite i b s = .ok t → t.eng = s.eng := fun hin =>
    fbWrite_keeps (P := fun u => u.eng = s.eng) (fun _ _ _ _ hu => hu) hin rfl
  unfold memWriteByte at h
  cases hroute : route s a with
  | banked w => rw [hroute] at h; exact hfb (masked_lt _ _) h
  | linear l => rw [hroute] at h; exact hfb (masked_lt _ _) h
  | accel o =>
    rw [hroute] at h hr
    cases h
    exact regWriteByte_eng (fun ho => of_decide_eq_false hr (.inl (by rw [ho]))) b s
  | mmio m =>
    rw [hroute] at h hr
    cases h
    exact mmioWriteByte_eng (fun hm => of_decide_eq_false hr (.inr (by rw [hm]))) b s
  | unclaimed => rw [hroute] at h; cases h; rfl

/-! ## Runs of bytes -/

theorem width_bytes_pos (n : Width) : 0 < n.bytes := by cases n <;> decide

theorem add_ofNat_zero {w : Nat} (x : BitVec w) : x + BitVec.ofNat w 0 = x := BitVec.add_zero x

/-- No byte of a write that begins at `a` reaches the command register along the route it has in the state the bytes
before it leave (R183). -/
def RunMissesCommand (a : Word) (bs : List Byte) (s : State) : Prop :=
  ∀ k u, k < bs.length → memWriteBytes a (bs.take k) s = .ok u →
    isCommandWord (route u (a + BitVec.ofNat 32 k)) = false

theorem RunMissesCommand.head {a : Word} {b : Byte} {bs : List Byte} {s : State}
    (h : RunMissesCommand a (b :: bs) s) : isCommandWord (route s a) = false := by
  have h0 := h 0 s (by simp) rfl
  rwa [add_ofNat_zero] at h0

theorem RunMissesCommand.tail {a : Word} {b : Byte} {bs : List Byte} {s t : State}
    (h : RunMissesCommand a (b :: bs) s) (ht : memWriteByte a b s = .ok t) : RunMissesCommand (a + 1) bs t := by
  intro k u hk hu
  have hstep := h (k + 1) u (by simpa using hk) (by simp only [List.take_succ_cons, memWriteBytes, ht, hu])
  rwa [show a + BitVec.ofNat 32 (k + 1) = a + 1 + BitVec.ofNat 32 k by bv_omega] at hstep

theorem memWriteBytes_eng {a : Word} {bs : List Byte} {s t : State} (hr : RunMissesCommand a bs s)
    (h : memWriteBytes a bs s = .ok t) : t.eng = s.eng := by
  induction bs generalizing a s with
  | nil => cases h; rfl
  | cons b bs ih =>
    unfold memWriteBytes at h
    split at h
    · rename_i u hu
      exact (ih (hr.tail hu) h).trans (memWriteByte_eng hr.head hu)
    · cases h

theorem memWrite_eng {a : Word} {n : Width} {v : Word} {s t : State} (hf : NotFed s a)
    (hr : RunMissesCommand a (bytesOf n.bytes v) s) (h : memWrite a n v s = .ok t) : t.eng = s.eng := by
  have hfirst : isCommandWord (route s a) = false := by
    have h0 := hr 0 s (by simpa using width_bytes_pos n) rfl
    rwa [add_ofNat_zero] at h0
  rw [memWrite_of_notFed hf, hfirst] at h
  exact memWriteBytes_eng hr h

theorem ioWriteBytes_eng {q : Half} {bs : List Byte} (hq : ∀ k, k < bs.length → q + BitVec.ofNat 16 k ≠ 0x2124)
    (s : State) : (ioWriteBytes q bs s).eng = s.eng := by
  induction bs generalizing q s with
  | nil => rfl
  | cons b bs ih =>
    have hhead : q ≠ 0x2124 := by
      have h0 := hq 0 (by simp)
      rwa [add_ofNat_zero] at h0
    have htail : ∀ k, k < bs.length → q + 1 + BitVec.ofNat 16 k ≠ 0x2124 := by
      intro k hk
      have hstep := hq (k + 1) (by simpa using hk)
      rwa [show q + BitVec.ofNat 16 (k + 1) = q + 1 + BitVec.ofNat 16 k by bv_omega] at hstep
    exact (ih htail _).trans (ioWriteByte_eng hhead b s)

theorem ioWrite_eng {q : Half} {n : Width} (hq : ∀ k, k < n.bytes → q + BitVec.ofNat 16 k ≠ 0x2124) (v : Word)
    (s : State) : (ioWrite q n v s).eng = s.eng := by
  have hfirst : q ≠ 0x2124 := by
    have h0 := hq 0 (width_bytes_pos n)
    rwa [add_ofNat_zero] at h0
  rw [ioWrite, if_neg fun h => hfirst h.1]
  exact ioWriteBytes_eng (by simpa using hq) s

/-! ## Instructions -/

/-- Settles O59: the rows one by one; the writes of several bytes by following each byte along its route. -/
theorem onlyCommandsFeedsAndResetMoveEngine : Obligations.OnlyCommandsFeedsAndResetMoveEngine := by
  unfold Obligations.OnlyCommandsFeedsAndResetMoveEngine
  intro s t i h hi
  have hwrite : ∀ {a n v}, memWrite a n v s = .ok t →
      (NotFed s a ∧ ∀ k u, k < n.bytes → memWriteBytes a ((bytesOf n.bytes v).take k) s = .ok u →
        route u (a + BitVec.ofNat 32 k) ≠ .accel 0x24 ∧ route u (a + BitVec.ofNat 32 k) ≠ .mmio 0x2124) →
      t.eng = s.eng := by
    rintro a n v ht ⟨hfed, hroutes⟩
    refine memWrite_eng hfed (fun k u hk hu => ?_) ht
    rw [bytesOf_length] at hk
    exact decide_eq_false (not_or.mpr (hroutes k u hk hu))
  cases i with
  | bitblt | bitbltDisplay | bitbltPattern | bitbltCpuNative | bitbltCpuMono | bitbltZeroStream | scanline | bresenham
  | shortvec | fastline | nopCmd | wrCommand | wrCommandRop | reset => exact hi.elim
  | wrRop | wrFlags | wrFgCol | wrBgCol | wrDstX | wrDstY | wrSrcX | wrSrcY | wrSizeX | wrSizeY | wrStyle | wrClipLeft
  | wrClipTop | wrClipRight | wrClipBottom | wrCkey | wrFgColMirror | wrBgColMirror | wrPattern | rdWindow | ioRead
  | modeUpdate | clearDirty => cases h; rfl
  | portSeqIdx op | portSeqData op | portGdcIdx op | portGdcData op | portCrtcIdx op | portCrtcData op | portWbank op
  | portRbank op => cases op <;> cases h <;> rfl
  | wrUndecoded o b =>
    rw [exec_of_windowWrite rfl] at h
    cases h
    refine regWriteByte_eng ?_ _ s
    rwa [encode, encodeWrite, setWidth_setWidth_byte o (by decide)]
  | rdUndecoded o =>
    change execRdUndecoded o s = _ at h
    unfold execRdUndecoded at h
    split at h <;> cases h <;> rfl
  | ioWrite p n v => cases h; exact ioWrite_eng hi v s
  | memWrite a n v => exact hwrite (outcomeOf_next h) hi
  | feed a n v => exact hwrite (outcomeOf_next (exec_feed a n v s ▸ h)) hi
  | memRead a n => rw [memRead_frame (outcomeOf_next h)]
  | pciSetMemEnable e =>
    change execPciSetMemEnable e s = _ at h
    unfold execPciSetMemEnable at h
    split at h <;> cases h <;> rfl
  | pciSetBar k base =>
    change execPciSetBar k base s = _ at h
    unfold execPciSetBar at h
    split_ifs at h <;> cases h <;> rfl

/-! ## Mode update -/

/-- Settles O54: the element size is `accelBppOf` of the depth (R31). -/
theorem modeUpdateSetsElementSize : Obligations.ModeUpdateSetsElementSize := by
  unfold Obligations.ModeUpdateSetsElementSize
  intro s d r
  refine ⟨accelBppOf d, rfl, fun h => if_pos h, ?depth32, ?other⟩
  case depth32 =>
    rintro rfl
    rfl
  case other =>
    intro h15 h16 h32
    rw [accelBppOf, if_neg (not_or.mpr ⟨h15, h16⟩), if_neg h32]

end Sys2Proof.Machine
end

section
/-!
PROOFS. Video memory: what an element write of the engine stores and marks (R63, R64, R66, R67), and the event that clears
a dirty bit (R66).
-/

namespace Sys2Proof.Machine

/-- The dirty pages after an element write: the page of the element and those dirty before (R64, R66). -/
theorem mem_writePixel_dirty {s : State} {off v : Word} {p : Nat} :
    p ∈ (writePixel s off v).dirty ↔ p = elemAddr s off / 4096 ∨ p ∈ s.dirty := by
  rw [writePixel_dirty, mem_markPage]

/-- Settles O53: the laws of the element address, then those of the element write, part by part. -/
theorem pixelWritesAreElements : Obligations.PixelWritesAreElements := by
  unfold Obligations.PixelWritesAreElements
  intro s off v hwf
  refine ⟨elemAddr_eq s off, ?aligned, ?inside, ?stored, ?marked, ?readBack⟩
  case aligned => exact elemAddr_aligned s off
  case inside => exact elemAddr_inside s off
  case stored => exact writePixel_read hwf off v
  case marked => exact fun _ => mem_writePixel_dirty
  case readBack => exact readPixel_writePixel hwf off v

/-- The event `clear_dirty` takes its page out of the dirty bitmap and ends there (R66). -/
theorem exec_clearDirty (page : Word) (s : State) :
    exec (.clearDirty page) s = .next { s with dirty := cleanPage s.dirty page.toNat } := rfl

/-- Settles O55: the event replaces the dirty bitmap only, by the pages other than its own. -/
theorem clearDirtyClearsOnePage : Obligations.ClearDirtyClearsOnePage := by
  unfold Obligations.ClearDirtyClearsOnePage
  intro s page
  exact ⟨_, exec_clearDirty page s, rfl, fun _ => mem_cleanPage⟩

end Sys2Proof.Machine
end

section
/-!
PROOFS. Decoding and encoding of transaction records: first what each check of a record accepts, then which row of the
opcode table each code, offset and port of the encoder selects, then the round trip, then that what the decoder accepts
is well-formed, and last the bare words of the table.
-/

namespace Sys2Proof.Machine

/-! ## Checks of a record -/

@[simp] theorem orReject_some (e : DecodeError) (i : Instr) : orReject e (some i) = .ok i := rfl

@[simp] theorem orReject_eq_ok {e : DecodeError} {o : Option Instr} {i : Instr} :
    orReject e o = .ok i ↔ o = some i := by
  cases o <;> simp [orReject]

@[simp] theorem whenZero_true (r : Except DecodeError Instr) : whenZero true r = r := rfl

@[simp] theorem whenZero_eq_ok {c : Bool} {r : Except DecodeError Instr} {i : Instr} :
    whenZero c r = .ok i ↔ c = true ∧ r = .ok i := by
  cases c <;> simp [whenZero]

/-- A byte carried in a wider field stays below 256. -/
theorem toNat_setWidth_byte_lt (b : Byte) {w : Nat} (h : 8 ≤ w) : (b.setWidth w).toNat < 256 := by
  rw [BitVec.toNat_setWidth_of_le h]
  exact b.isLt

@[simp] theorem withByte_setWidth (b : Byte) (f : Byte → Except DecodeError Instr) :
    withByte (b.setWidth 32) f = f b := by
  rw [withByte, if_pos (toNat_setWidth_byte_lt b (by decide)), setWidth_setWidth_byte b (by decide)]

/-- The byte a one-byte record carries is what its reading is given. -/
theorem withByte_eq_ok {v : Word} {f : Byte → Except DecodeError Instr} {i : Instr} (h : withByte v f = .ok i) :
    f (v.setWidth 8) = .ok i := by
  rw [withByte] at h
  split at h
  · exact h
  · cases h

@[simp] theorem withWidth_raw (n : Width) (f : Width → Except DecodeError Instr) : withWidth n.raw f = f n := by
  cases n <;> rfl

theorem withWidth_eq_ok {n : Byte} {f : Width → Except DecodeError Instr} {i : Instr} (h : withWidth n f = .ok i) :
    ∃ w, f w = .ok i := by
  rw [withWidth] at h
  split at h
  · exact ⟨_, h⟩
  · cases h

theorem withDatum_raw {n : Width} {v : Word} (h : fitsWidth n v = true) (f : Width → Except DecodeError Instr) :
    withDatum n.raw v f = f n := by
  rw [withDatum, withWidth_raw, if_pos h]

/-- A host write that is accepted has a width that its datum fits (R90). -/
theorem withDatum_eq_ok {n : Byte} {v : Word} {f : Width → Except DecodeError Instr} {i : Instr}
    (h : withDatum n v f = .ok i) : ∃ w, fitsWidth w v = true ∧ f w = .ok i := by
  obtain ⟨w, hw⟩ := withWidth_eq_ok h
  split at hw
  · exact ⟨w, ‹_›, hw⟩
  · cases hw

/-- A check that rejects by name lets pass only what meets it. -/
theorem ite_error_eq_ok {p : Prop} [Decidable p] {e : DecodeError} {r : Except DecodeError Instr} {i : Instr} :
    (if p then r else .error e) = .ok i ↔ p ∧ r = .ok i := by
  by_cases h : p <;> simp [h]

/-! ## Rows of the encoder's codes, offsets and ports -/

/-- A code that no row names is in one of the ranges of `NOP_CMD` (R104, R105). -/
theorem findRow_command_of_not_named (code : Byte) :
    namedCommandCode code = false → findRow (commandRows ++ nopRows) (code.setWidth 16) = some .nopCmd := by
  decide +revert

/-- The rows of the 32-bit registers, at every lane (R93, R94). -/
theorem findRow_lane32 (l : BitVec 2) :
    findRow writeRows (0x28 ||| l.setWidth 16) = some .wrFlags ∧
    findRow writeRows (0x2C ||| l.setWidth 16) = some .wrFgCol ∧
    findRow writeRows (0x30 ||| l.setWidth 16) = some .wrBgCol ∧
    findRow writeRows (0x44 ||| l.setWidth 16) = some .wrStyle ∧
    findRow writeRows (0x68 ||| l.setWidth 16) = some .wrCkey ∧
    findRow writeRows (0x78 ||| l.setWidth 16) = some .wrFgColMirror ∧
    findRow writeRows (0x7C ||| l.setWidth 16) = some .wrBgColMirror := by decide +revert

/-- The rows of the 16-bit registers, at both lanes (R93, R94). -/
theorem findRow_lane16 (l : BitVec 1) :
    findRow writeRows (0x38 ||| l.setWidth 16) = some .wrDstX ∧
    findRow writeRows (0x3A ||| l.setWidth 16) = some .wrDstY ∧
    findRow writeRows (0x3C ||| l.setWidth 16) = some .wrSrcX ∧
    findRow writeRows (0x3E ||| l.setWidth 16) = some .wrSrcY ∧
    findRow writeRows (0x40 ||| l.setWidth 16) = some .wrSizeX ∧
    findRow writeRows (0x42 ||| l.setWidth 16) = some .wrSizeY ∧
    findRow writeRows (0x48 ||| l.setWidth 16) = some .wrClipLeft ∧
    findRow writeRows (0x4A ||| l.setWidth 16) = some .wrClipTop ∧
    findRow writeRows (0x4C ||| l.setWidth 16) = some .wrClipRight ∧
    findRow writeRows (0x4E ||| l.setWidth 16) = some .wrClipBottom := by decide +revert

/-- The row of the pattern cells (R97). -/
theorem findRow_patternCell (j : BitVec 7) :
    findRow writeRows (0x80 ||| j.setWidth 16) = some .wrPattern := by decide +revert

/-- No row has an undecoded offset (R98). -/
theorem findRow_of_undecodedOffset (o : Byte) :
    undecodedOffset o = true → findRow writeRows (o.setWidth 16) = none := by decide +revert

/-- The lane stands in the low bits of an offset whose base leaves them 0 (R93). -/
theorem setWidth_base_or_lane {w : Nat} {base : Half} (hw : w ≤ 16) (hb : base.setWidth w = 0) (l : BitVec w) :
    (base ||| l.setWidth 16).setWidth w = l := by
  rw [BitVec.setWidth_or, hb, BitVec.setWidth_setWidth_of_le _ hw, BitVec.setWidth_eq]
  exact BitVec.zero_or

/-! ## The round trip -/

theorem decode_encodeCommand (code : Byte) :
    decode (encodeCommand code) =
      orReject .badOffset ((findRow (commandRows ++ nopRows) (code.setWidth 16)).bind fun r => commandOf r code) := by
  simp [decode, encodeCommand, setWidth_setWidth_byte code (w := 16) (by decide)]

theorem decode_encodeWrite (o : Half) (b : Byte) : decode (encodeWrite o b) = decodeWindowWrite o b := by
  simp [decode, encodeWrite]

/-- A window read at any offset is the row of that offset (R149, R153). -/
theorem decode_encodeRead (o : Byte) :
    decode (encodeRead o) = if undecodedOffset o then .ok (.rdUndecoded o) else .ok (.rdWindow o) := by
  have hlt := toNat_setWidth_byte_lt o (w := 16) (by decide)
  simp only [decode, encodeRead, beq_self_eq_true, Bool.and_self, whenZero_true, if_true, decodeWindowRead, if_pos hlt,
    setWidth_setWidth_byte o (w := 16) (by decide)]

/-- A byte at a port of R109 is the instruction of the port's row, written or read. -/
theorem decode_encodePort {p : Half} {r : RowName} {op : PortOp} {i : Instr} (hrow : findRow portRows p = some r)
    (hi : portOf r op = some i) : decode (encodePort p op) = .ok i := by
  cases op <;> simp [decode, encodePort, hrow, hi]

/-- Settles O1: constructor by constructor, the record's kind passes its checks and its key selects the instruction's
row. -/
theorem decodeEncodeRoundTrip : Obligations.DecodeEncodeRoundTrip := by
  unfold Obligations.DecodeEncodeRoundTrip
  intro i hwf
  cases i with
  | bitblt | bitbltDisplay | bitbltPattern | bitbltCpuNative | bitbltCpuMono | bitbltZeroStream | scanline | bresenham
  | shortvec | fastline | wrCommandRop | modeUpdate | clearDirty | reset => rfl
  | nopCmd code =>
    have hnamed : namedCommandCode code = false := (Bool.not_eq_true' _).mp hwf
    rw [encode, decode_encodeCommand, findRow_command_of_not_named code hnamed]
    rfl
  | feed a n v | ioWrite p n v | memWrite a n v => simp [encode, decode, withDatum_raw (n := n) (v := v) hwf]
  | ioRead p n | memRead a n => simp [encode, decode]
  | wrCommand b | wrRop b =>
    rw [encode, decode_encodeWrite]
    rfl
  | wrFlags l b | wrFgCol l b | wrBgCol l b | wrStyle l b | wrCkey l b | wrFgColMirror l b | wrBgColMirror l b =>
    simp (disch := decide) only [encode, decode_encodeWrite, decodeWindowWrite, findRow_lane32 l, writeOf,
      orReject_some, setWidth_base_or_lane]
  | wrDstX l b | wrDstY l b | wrSrcX l b | wrSrcY l b | wrSizeX l b | wrSizeY l b | wrClipLeft l b | wrClipTop l b
  | wrClipRight l b | wrClipBottom l b =>
    simp (disch := decide) only [encode, decode_encodeWrite, decodeWindowWrite, findRow_lane16 l, writeOf,
      orReject_some, setWidth_base_or_lane]
  | wrPattern j b =>
    simp (disch := decide) only [encode, decode_encodeWrite, decodeWindowWrite, findRow_patternCell j, writeOf,
      orReject_some, setWidth_base_or_lane]
  | wrUndecoded o b =>
    change undecodedOffset o = true at hwf
    have hlt := toNat_setWidth_byte_lt o (w := 16) (by decide)
    simp only [encode, decode_encodeWrite, decodeWindowWrite, findRow_of_undecodedOffset o hwf, decide_eq_true hlt, hwf,
      setWidth_setWidth_byte o (w := 16) (by decide), Bool.and_self, if_true]
  | rdWindow o =>
    have hdecoded : undecodedOffset o = false := (Bool.not_eq_true' _).mp hwf
    rw [encode, decode_encodeRead, hdecoded]
    rfl
  | rdUndecoded o =>
    change undecodedOffset o = true at hwf
    rw [encode, decode_encodeRead, if_pos hwf]
  | portSeqIdx op | portSeqData op | portGdcIdx op | portGdcData op | portCrtcIdx op | portCrtcData op
  | portWbank op | portRbank op => exact decode_encodePort rfl rfl
  | pciSetMemEnable e => cases e <;> rfl
  | pciSetBar k base =>
    have hlt := toNat_setWidth_byte_lt k (w := 16) (by decide)
    simp only [encode, decode, beq_self_eq_true, Bool.and_self, whenZero_true, if_pos hlt,
      setWidth_setWidth_byte k (w := 16) (by decide)]

/-! ## What the decoder accepts -/

theorem findRow_eq_some {rows : List Row} {k : Half} {n : RowName} (h : findRow rows k = some n) :
    ∃ r ∈ rows, r.hits k = true ∧ r.row = n := by
  obtain ⟨r, hr, hn⟩ := Option.map_eq_some_iff.mp h
  exact ⟨r, List.mem_of_find?_eq_some hr, List.find?_some (p := fun r : Row => r.hits k) hr, hn⟩

/-- Each `NOP_CMD` row differs from every named code in the low byte already (R104, R105). -/
theorem not_named_of_nopRow_hits {r : Row} {k : Half} (hr : r ∈ nopRows) (h : r.hits k = true) :
    namedCommandCode (k.setWidth 8) = false := by
  have hlow : k.setWidth 8 &&& r.mask.setWidth 8 = r.pat.setWidth 8 := by
    rw [← BitVec.setWidth_and, beq_iff_eq.mp h]
  have apart : ∀ r ∈ nopRows, ∀ c ∈ ([1, 3, 4, 5, 6] : List Byte),
      c &&& r.mask.setWidth 8 ≠ r.pat.setWidth 8 := by decide
  have hne : ∀ c ∈ ([1, 3, 4, 5, 6] : List Byte), k.setWidth 8 ≠ c := fun c hc e => apart r hr c hc (e ▸ hlow)
  simpa [namedCommandCode, and_assoc] using hne

/-- A command found in rows whose `NOP_CMD` rows are those of R104 is well-formed. -/
theorem wellFormed_of_commandOf {rows : List Row} {k : Half} {r : RowName} {i : Instr}
    (hrows : ∀ q ∈ rows, q.row = .nopCmd → q ∈ nopRows) (hr : findRow rows k = some r)
    (h : commandOf r (k.setWidth 8) = some i) : WellFormed i = true := by
  obtain ⟨q, hq, hhits, hrow⟩ := findRow_eq_some hr
  cases r with
  | nopCmd =>
    cases h
    exact (Bool.not_eq_true' _).mpr (not_named_of_nopRow_hits (hrows q hq hrow) hhits)
  | bitblt | scanline | bresenham | shortvec | fastline =>
    cases h
    rfl
  | _ => cases h

theorem wellFormed_of_writeOf {r : RowName} {k : Half} {b : Byte} {i : Instr} (h : writeOf r k b = some i) :
    WellFormed i = true := by
  unfold writeOf at h
  split at h <;> cases h <;> rfl

theorem wellFormed_of_portOf {r : RowName} {op : PortOp} {i : Instr} (h : portOf r op = some i) :
    WellFormed i = true := by
  unfold portOf at h
  split at h <;> cases h <;> rfl

theorem wellFormed_of_decodeTable {k : Half} {v : Word} {i : Instr} (h : decodeTable k v = .ok i) :
    WellFormed i = true := by
  unfold decodeTable at h
  split at h
  · cases h
  · rename_i r hr
    split at h
    · rename_i j hc
      obtain ⟨-, hj⟩ := whenZero_eq_ok.mp h
      cases hj
      exact wellFormed_of_commandOf (by decide) hr hc
    · have hb := withByte_eq_ok h
      split at hb
      · rename_i j hw
        cases hb
        exact wellFormed_of_writeOf hw
      · exact wellFormed_of_portOf (orReject_eq_ok.mp hb)

theorem wellFormed_of_decodeWindowWrite {k : Half} {b : Byte} {i : Instr} (h : decodeWindowWrite k b = .ok i) :
    WellFormed i = true := by
  unfold decodeWindowWrite at h
  split at h
  · exact wellFormed_of_writeOf (orReject_eq_ok.mp h)
  · split at h
    · rename_i hu
      cases h
      exact (Bool.and_eq_true_iff.mp hu).2
    · cases h

theorem wellFormed_of_decodeWindowRead {k : Half} {i : Instr} (h : decodeWindowRead k = .ok i) :
    WellFormed i = true := by
  unfold decodeWindowRead at h
  split_ifs at h with hk hu <;> cases h
  · exact hu
  · simpa [WellFormed] using hu

/-- A host write or feed row is well-formed because its datum fits (R90). -/
theorem wellFormed_of_withDatum {n : Byte} {v : Word} {mk : Width → Instr} {i : Instr}
    (hmk : ∀ w, WellFormed (mk w) = fitsWidth w v) (h : withDatum n v (fun w => .ok (mk w)) = .ok i) :
    WellFormed i = true := by
  obtain ⟨w, hfit, hw⟩ := withDatum_eq_ok h
  cases hw
  exact (hmk w).trans hfit

/-- Settles O2: kind by kind, what passes the record's checks is well-formed. -/
theorem decodedInstructionsAreWellFormed : Obligations.DecodedInstructionsAreWellFormed := by
  unfold Obligations.DecodedInstructionsAreWellFormed
  rintro ⟨kind, key, n, value, addr⟩ i h
  cases kind with
  | tableWord => exact wellFormed_of_decodeTable (whenZero_eq_ok.mp h).2
  | command =>
    obtain ⟨r, hr, hc⟩ := Option.bind_eq_some_iff.mp (orReject_eq_ok.mp (whenZero_eq_ok.mp h).2)
    exact wellFormed_of_commandOf (by decide) hr hc
  | commandFlags =>
    obtain ⟨f, hf, rfl⟩ := Option.map_eq_some_iff.mp (orReject_eq_ok.mp (whenZero_eq_ok.mp h).2)
    have hforms : ∀ f ∈ commandFlagsForms, WellFormed f.2.2 = true := by decide
    exact hforms f (List.mem_of_find?_eq_some hf)
  | windowWrite =>
    obtain ⟨-, hw⟩ := ite_error_eq_ok.mp h
    exact wellFormed_of_decodeWindowWrite (withByte_eq_ok (whenZero_eq_ok.mp hw).2)
  | windowLong =>
    obtain ⟨-, hw⟩ := ite_error_eq_ok.mp h
    obtain ⟨-, hi⟩ := ite_error_eq_ok.mp (whenZero_eq_ok.mp hw).2
    cases hi
    rfl
  | windowRead =>
    obtain ⟨-, hr⟩ := ite_error_eq_ok.mp h
    exact wellFormed_of_decodeWindowRead (whenZero_eq_ok.mp hr).2
  | portWrite =>
    obtain ⟨-, hw⟩ := ite_error_eq_ok.mp h
    obtain ⟨r, -, hp⟩ := Option.bind_eq_some_iff.mp (orReject_eq_ok.mp (withByte_eq_ok (whenZero_eq_ok.mp hw).2))
    exact wellFormed_of_portOf hp
  | portRead =>
    obtain ⟨-, hr⟩ := ite_error_eq_ok.mp h
    obtain ⟨r, -, hp⟩ := Option.bind_eq_some_iff.mp (orReject_eq_ok.mp (whenZero_eq_ok.mp hr).2)
    exact wellFormed_of_portOf hp
  | ioWrite | memWrite | feed => exact wellFormed_of_withDatum (fun _ => rfl) (whenZero_eq_ok.mp h).2
  | ioRead | memRead =>
    obtain ⟨w, hw⟩ := withWidth_eq_ok (whenZero_eq_ok.mp h).2
    cases hw
    rfl
  | modeUpdate | clearDirty | reset =>
    obtain ⟨-, hi⟩ := whenZero_eq_ok.mp h
    cases hi
    rfl
  | pciSetMemEnable =>
    obtain ⟨-, hi⟩ := whenZero_eq_ok.mp h
    split_ifs at hi <;> cases hi <;> rfl
  | pciSetBar =>
    obtain ⟨-, hi⟩ := ite_error_eq_ok.mp (whenZero_eq_ok.mp h).2
    cases hi
    rfl

/-! ## Bare table words -/

theorem decodeTable_of_command {k : Half} {r : RowName} {i : Instr} (hrow : findRow tableRows k = some r)
    (hi : commandOf r (k.setWidth 8) = some i) : decodeTable k 0 = .ok i := by
  simp only [decodeTable, hrow, hi]
  rfl

theorem decodeTable_of_write {k : Half} {v : Word} {r : RowName} {i : Instr} (hrow : findRow tableRows k = some r)
    (hc : commandOf r (k.setWidth 8) = none) (hv : v.toNat < 256) (hi : writeOf r k (v.setWidth 8) = some i) :
    decodeTable k v = .ok i := by
  simp only [decodeTable, hrow, hc, withByte, if_pos hv, hi]

theorem decodeTable_of_port {k : Half} {v : Word} {r : RowName} {i : Instr} (hrow : findRow tableRows k = some r)
    (hc : commandOf r (k.setWidth 8) = none) (hv : v.toNat < 256) (hw : writeOf r k (v.setWidth 8) = none)
    (hi : portOf r (.write (v.setWidth 8)) = some i) : decodeTable k v = .ok i := by
  simp only [decodeTable, hrow, hc, withByte, if_pos hv, hw, hi, orReject_some]

/-- A bare word is read as the key and the operand it is cut into. -/
theorem decodeTableWord_eq_some {nbits w : Nat} {i : Instr}
    (h : decodeTable (BitVec.ofNat 16 (w % 2 ^ nbits)) (BitVec.ofNat 32 ((w % 2 ^ nbits) / 65536)) = .ok i) :
    decodeTableWord nbits w = some i := by
  rw [decodeTableWord, tableTx, decode]
  simp [h, Except.toOption]

/-- Settles O3: the low 16 bits of each word select a row of a command, of a window write or of a port. -/
theorem tableWordsDecode : Obligations.TableWordsDecode := by
  unfold Obligations.TableWordsDecode
  refine ⟨?bitblt, ?scanline, ?nop, ?rop, ?flags, ?srcX, ?pattern, ?crtc⟩ <;> apply decodeTableWord_eq_some
  case bitblt | scanline | nop => exact decodeTable_of_command rfl rfl
  case rop | flags | srcX | pattern => exact decodeTable_of_write rfl rfl (by decide) rfl
  case crtc => exact decodeTable_of_port rfl rfl (by decide) rfl rfl

end Sys2Proof.Machine
end

section
/-!
PROOFS. The raster-operation evaluator. R137's sum of minterms is R130's table lookup: in each bit lane exactly one
minterm is 1, the one of the index the operands' bits form. From that lane law: bitwise independence (R132), the table
identity (R133), operand dependence (R134) and the Boolean forms of the named codes (R135).
-/

namespace Sys2Proof.Machine

/-! ## The lane law -/

/-- `k = 4·pat + 2·src + dst`, the bit of the code that the operands' bits of one lane select (R130). -/
def codeIndex (dst pat src : Bool) : Nat := 4 * pat.toNat + 2 * src.toNat + dst.toNat

theorem codeIndex_lt (dst pat src : Bool) : codeIndex dst pat src < 8 := by
  cases dst <;> cases pat <;> cases src <;> decide

/-- A lane of the minterm of `k` is 1 exactly when the operands' bits there are the bits of `k` (R137). -/
theorem minterm_getLsbD {k i : Nat} (dst pat src : Word) (hk : k < 8) (hi : i < 32) :
    (minterm k dst pat src).getLsbD i =
      decide (k = codeIndex (dst.getLsbD i) (pat.getLsbD i) (src.getLsbD i)) := by
  have lane : ∀ (b : Bool) (v : Word), (if b then v else ~~~v).getLsbD i = (b == v.getLsbD i) := by
    intro b v
    cases b <;> simp [hi]
  have bits : ∀ k < 8, ∀ d p s : Bool,
      (k.testBit 2 == p && k.testBit 1 == s && k.testBit 0 == d) = decide (k = codeIndex d p s) := by decide
  rw [minterm, BitVec.getLsbD_and, BitVec.getLsbD_and, lane, lane, lane, bits k hk]

/-- A bit of a sum of words, each taken under a condition, is 1 exactly when it is 1 in one of the words taken. -/
theorem foldl_or_getLsbD {f : Nat → Bool} {g : Nat → Word} (ks : List Nat) (acc : Word) (i : Nat) :
    (ks.foldl (fun acc k => if f k then acc ||| g k else acc) acc).getLsbD i =
      (acc.getLsbD i || ks.any (fun k => f k && (g k).getLsbD i)) := by
  induction ks generalizing acc with
  | nil => simp
  | cons k ks ih =>
    rw [List.foldl_cons, ih, List.any_cons, ← Bool.or_assoc]
    cases f k <;> simp

/-- The sum of minterms, in one lane (R137). -/
theorem mix_getLsbD_eq_any (rop : Byte) (dst pat src : Word) (i : Nat) :
    (mix rop dst pat src).getLsbD i =
      (List.range 8).any (fun k => rop.getLsbD k && (minterm k dst pat src).getLsbD i) := by
  rw [mix, foldl_or_getLsbD, BitVec.ofNat_eq_ofNat, BitVec.getLsbD_zero, Bool.false_or]
  rfl

/-- The lane law (R130): result bit `i` is the code's bit at the index formed by the operands' bits `i`. -/
theorem mix_getLsbD {i : Nat} (rop : Byte) (dst pat src : Word) (hi : i < 32) :
    (mix rop dst pat src).getLsbD i =
      rop.getLsbD (codeIndex (dst.getLsbD i) (pat.getLsbD i) (src.getLsbD i)) := by
  have hn := codeIndex_lt (dst.getLsbD i) (pat.getLsbD i) (src.getLsbD i)
  rw [mix_getLsbD_eq_any, Bool.eq_iff_iff, List.any_eq_true]
  constructor
  · rintro ⟨k, hk, hbits⟩
    rw [minterm_getLsbD dst pat src (List.mem_range.mp hk) hi, Bool.and_eq_true, decide_eq_true_iff] at hbits
    obtain ⟨hbit, rfl⟩ := hbits
    exact hbit
  · intro hbit
    refine ⟨_, List.mem_range.mpr hn, ?_⟩
    rw [hbit, minterm_getLsbD dst pat src hn hi, decide_eq_true rfl, Bool.and_self]

/-- Settles O5: the lane law, with the index written out. -/
theorem mixSelectsCodeBit : Obligations.MixSelectsCodeBit := by
  unfold Obligations.MixSelectsCodeBit
  exact fun rop dst pat src i hi => mix_getLsbD rop dst pat src hi

/-! ## Operand dependence -/

/-- A mask of R134 is nonzero exactly when two bits of the code, `w` apart and the lower one at a
place of `m`, differ. -/
theorem foldMask_ne_zero_iff {c m : Byte} {w : Nat} :
    (c &&& m) ^^^ ((c >>> w) &&& m) ≠ 0 ↔ ∃ k, m.getLsbD k = true ∧ c.getLsbD k ≠ c.getLsbD (k + w) := by
  have bit : ∀ k, ((c &&& m) ^^^ ((c >>> w) &&& m)).getLsbD k =
      (m.getLsbD k && (c.getLsbD k ^^ c.getLsbD (k + w))) := by
    intro k
    rw [BitVec.getLsbD_xor, BitVec.getLsbD_and, BitVec.getLsbD_and, BitVec.getLsbD_ushiftRight, Nat.add_comm w k]
    cases m.getLsbD k <;> simp
  have zero_iff : (c &&& m) ^^^ ((c >>> w) &&& m) = 0 ↔
      ∀ k, m.getLsbD k = true → c.getLsbD k = c.getLsbD (k + w) := by
    constructor
    · intro h k hm
      have := bit k
      rw [h, hm] at this
      simpa using this
    · intro h
      apply BitVec.eq_of_getLsbD_eq
      intro k _
      rw [bit]
      cases hm : m.getLsbD k with
      | false => simp
      | true => simp [h k hm]
  rw [Ne, zero_iff]
  push Not
  rfl

/-- The operand with one bit in every lane. -/
def fill (b : Bool) : Word := if b then BitVec.allOnes 32 else 0

@[simp] theorem fill_getLsbD (b : Bool) {i : Nat} (hi : i < 32) : (fill b).getLsbD i = b := by
  cases b
  · exact BitVec.getLsbD_zero
  · exact (BitVec.getLsbD_allOnes ..).trans (decide_eq_true hi)

/-- A function of three words that acts lane by lane, each lane by the table `g`, depends on its last operand exactly
when the table does: full words carry a difference of the table into every lane. -/
theorem dependsOnLast_iff {f : Word → Word → Word → Word} {g : Bool → Bool → Bool → Bool}
    (hlane : ∀ (x y z : Word) (i : Nat), i < 32 →
      (f x y z).getLsbD i = g (x.getLsbD i) (y.getLsbD i) (z.getLsbD i)) :
    (∃ x y z z', f x y z ≠ f x y z') ↔ ∃ x y, g x y false ≠ g x y true := by
  constructor
  · rintro ⟨x, y, z, z', hne⟩
    by_contra! hall
    have same : ∀ a b c c', g a b c = g a b c' := by
      intro a b c c'
      cases c <;> cases c' <;> simp [hall a b]
    apply hne
    apply BitVec.eq_of_getLsbD_eq
    intro i hi
    rw [hlane _ _ _ i hi, hlane _ _ _ i hi, same]
  · rintro ⟨x, y, hne⟩
    refine ⟨fill x, fill y, fill false, fill true, fun heq => hne ?_⟩
    have h0 := hlane (fill x) (fill y) (fill false) 0 (by decide)
    rw [heq, hlane _ _ _ 0 (by decide)] at h0
    simp only [fill_getLsbD _ (show 0 < 32 by decide)] at h0
    exact h0.symm

/-- R134 for one operand: `index` is the code's index with that operand's bit last, a 1 there weighs `w`, and the mask
marks the indices where it is 0. -/
theorem foldMask_ne_zero_iff_depends {c m : Byte} {w : Nat} {f : Word → Word → Word → Word}
    {index : Bool → Bool → Bool → Nat}
    (hlane : ∀ (x y z : Word) (i : Nat), i < 32 →
      (f x y z).getLsbD i = c.getLsbD (index (x.getLsbD i) (y.getLsbD i) (z.getLsbD i)))
    (hmask : ∀ k < 8, m.getLsbD k = true ↔ ∃ x y, index x y false = k)
    (hlt : ∀ x y, index x y false < 8) (hweight : ∀ x y, index x y true = index x y false + w) :
    (c &&& m) ^^^ ((c >>> w) &&& m) ≠ 0 ↔ ∃ x y z z', f x y z ≠ f x y z' := by
  rw [foldMask_ne_zero_iff, dependsOnLast_iff (g := fun x y z => c.getLsbD (index x y z)) hlane]
  constructor
  · rintro ⟨k, hm, hne⟩
    obtain ⟨x, y, rfl⟩ := (hmask k (BitVec.lt_of_getLsbD hm)).mp hm
    exact ⟨x, y, by rwa [hweight]⟩
  · rintro ⟨x, y, hne⟩
    rw [hweight] at hne
    exact ⟨index x y false, (hmask _ (hlt x y)).mpr ⟨x, y, rfl⟩, hne⟩

/-- The mask of the pattern need not be applied again to the high half of the code (R134). -/
theorem ushiftRight_four_and (c : Byte) : c >>> 4 &&& (0x0F : Byte) = c >>> 4 := by
  apply BitVec.eq_of_toNat_eq
  have := c.isLt
  simp [Nat.shiftRight_eq_div_pow, Nat.and_two_pow_sub_one_eq_mod _ 4]
  omega

/-- Settles O7: the source weighs 2 in the code's index, the pattern 4 and the destination 1, and each mask marks the
indices where its operand is 0. -/
theorem operandDependence : Obligations.OperandDependence := by
  unfold Obligations.OperandDependence
  intro c
  refine ⟨?source, ?pattern, ?destination⟩
  case source =>
    exact foldMask_ne_zero_iff_depends (m := 0x33) (w := 2) (f := fun d p s => mix c d p s)
      (index := fun d p s => codeIndex d p s)
      (fun d p s _ => mix_getLsbD c d p s) (by decide) (by decide) (by decide)
  case pattern =>
    have key := foldMask_ne_zero_iff_depends (m := 0x0F) (w := 4) (f := fun d s p => mix c d p s)
      (index := fun d s p => codeIndex d p s)
      (fun d s p _ => mix_getLsbD c d p s) (by decide) (by decide) (by decide)
    rw [ushiftRight_four_and] at key
    exact key.trans ⟨fun ⟨d, s, p, p', h⟩ => ⟨d, p, p', s, h⟩, fun ⟨d, p, p', s, h⟩ => ⟨d, s, p, p', h⟩⟩
  case destination =>
    have key := foldMask_ne_zero_iff_depends (m := 0x55) (w := 1) (f := fun p s d => mix c d p s)
      (index := fun p s d => codeIndex d p s)
      (fun p s d _ => mix_getLsbD c d p s) (by decide) (by decide) (by decide)
    exact key.trans ⟨fun ⟨p, s, d, d', h⟩ => ⟨d, d', p, s, h⟩, fun ⟨d, d', p, s, h⟩ => ⟨p, s, d, d', h⟩⟩

/-! ## Independence of lanes -/

/-- Equal operand bits of a lane give equal result bits of it (R132). -/
theorem mix_getLsbD_congr {d p s d' p' s' : Word} {i : Nat} (c : Byte) (hd : d.getLsbD i = d'.getLsbD i)
    (hp : p.getLsbD i = p'.getLsbD i) (hs : s.getLsbD i = s'.getLsbD i) :
    (mix c d p s).getLsbD i = (mix c d' p' s').getLsbD i := by
  by_cases hi : i < 32
  · rw [mix_getLsbD c d p s hi, mix_getLsbD c d' p' s' hi, hd, hp, hs]
  · rw [BitVec.getLsbD_of_ge _ _ (by omega), BitVec.getLsbD_of_ge _ _ (by omega)]

/-- Truncating to an element keeps the element's bits and clears the others (R14). -/
theorem trunc_getLsbD (e : AccelBpp) (v : Word) {i : Nat} (hi : i < 32) :
    (e.trunc v).getLsbD i = (decide (i < 8 * e.bytes) && v.getLsbD i) := by
  rw [← trunc_eq_wordOfBytes, wordOfBytes_bytesOf_getLsbD _ _ hi]

/-- Settles O8: the lanes inside an element have the same operand bits before and after truncating, and the others are
cleared on both sides. -/
theorem mixActsLanewise : Obligations.MixActsLanewise := by
  unfold Obligations.MixActsLanewise
  refine ⟨fun c d p s d' p' s' i => mix_getLsbD_congr c, fun e c d p s => ?trunc⟩
  apply BitVec.eq_of_getLsbD_eq
  intro i hi
  rw [trunc_getLsbD e _ hi, trunc_getLsbD e _ hi]
  by_cases he : i < 8 * e.bytes
  · have inside : ∀ v : Word, v.getLsbD i = (e.trunc v).getLsbD i := fun v => by simp [trunc_getLsbD e v hi, he]
    rw [mix_getLsbD_congr c (inside d) (inside p) (inside s)]
  · simp [he]

/-! ## The table identity -/

/-- The bytes of a word do not overlap, so assembling them is adding them. -/
theorem wordOfBytes_cons_eq_add (b : Byte) (bs : List Byte) :
    wordOfBytes (b :: bs) = b.setWidth 32 + wordOfBytes bs * 256 := by
  have shift : wordOfBytes bs <<< 8 = wordOfBytes bs * 256 := by
    rw [BitVec.shiftLeft_eq_mul_twoPow]
    rfl
  rw [wordOfBytes, ← shift, BitVec.add_eq_or_of_and_eq_zero]
  apply BitVec.eq_of_getLsbD_eq
  intro i hi
  by_cases h : i < 8
  · simp [h]
  · simp [BitVec.getLsbD_of_ge b i (by omega)]

/-- A byte times 0x01010101 is the byte in each of the four places. -/
theorem mul_repeat_eq_wordOfBytes (c : Byte) : c.setWidth 32 * 0x01010101 = wordOfBytes [c, c, c, c] := by
  simp only [wordOfBytes_cons_eq_add, show wordOfBytes [] = 0 from rfl]
  ring

/-- The column words count through the code's indices, lane `i` selecting bit `i mod 8` (R133). -/
theorem codeIndex_columns : ∀ i < 32, codeIndex ((0xAAAAAAAA : Word).getLsbD i) ((0xF0F0F0F0 : Word).getLsbD i)
    ((0xCCCCCCCC : Word).getLsbD i) = i % 8 := by decide

/-- Settles O6: lane `i` selects code bit `i mod 8`, which is bit `i` of the code repeated in each byte. -/
theorem mixTableIdentity : Obligations.MixTableIdentity := by
  unfold Obligations.MixTableIdentity
  intro c
  rw [mul_repeat_eq_wordOfBytes]
  apply BitVec.eq_of_getLsbD_eq
  intro i hi
  have place : ∀ n < 4, [c, c, c, c].getD n 0 = c := by
    intro n hn
    interval_cases n <;> rfl
  rw [mix_getLsbD _ _ _ _ hi, codeIndex_columns i hi, wordOfBytes_getLsbD _ _ hi, place (i / 8) (by omega)]

/-! ## Named codes -/

/-- A code whose eight bits are the truth table of `form` gives the word that is `form` in every lane (R131). -/
theorem mix_eq_of_form {c : Byte} {d p s v : Word} (form : Bool → Bool → Bool → Bool)
    (htable : ∀ x y z, c.getLsbD (codeIndex x y z) = form x y z)
    (hword : ∀ i < 32, v.getLsbD i = form (d.getLsbD i) (p.getLsbD i) (s.getLsbD i)) : mix c d p s = v := by
  apply BitVec.eq_of_getLsbD_eq
  intro i hi
  rw [mix_getLsbD c d p s hi, htable, hword i hi]

/-- Settles O9: each code is the truth table of its form, and each word is the form in every lane. -/
theorem namedRasterCodes : Obligations.NamedRasterCodes := by
  unfold Obligations.NamedRasterCodes
  intro d p s
  refine ⟨?blackness, ?notSrcErase, ?notSrcCopy, ?srcErase, ?dstInvert, ?patInvert, ?srcInvert, ?srcAnd,
    ?noOp, ?mergePaint, ?mergeCopy, ?srcCopy, ?srcPaint, ?patCopy, ?patPaint, ?whiteness⟩
  case blackness => exact mix_eq_of_form (fun _ _ _ => false) (by decide) (by simp)
  case notSrcErase => exact mix_eq_of_form (fun d _ s => !(s || d)) (by decide) (by simp +contextual)
  case notSrcCopy => exact mix_eq_of_form (fun _ _ s => !s) (by decide) (by simp +contextual)
  case srcErase => exact mix_eq_of_form (fun d _ s => s && !d) (by decide) (by simp +contextual)
  case dstInvert => exact mix_eq_of_form (fun d _ _ => !d) (by decide) (by simp +contextual)
  case patInvert => exact mix_eq_of_form (fun d p _ => p ^^ d) (by decide) (by simp)
  case srcInvert => exact mix_eq_of_form (fun d _ s => s ^^ d) (by decide) (by simp)
  case srcAnd => exact mix_eq_of_form (fun d _ s => s && d) (by decide) (by simp)
  case noOp => exact mix_eq_of_form (fun d _ _ => d) (by decide) (by simp)
  case mergePaint => exact mix_eq_of_form (fun d _ s => !s || d) (by decide) (by simp +contextual)
  case mergeCopy => exact mix_eq_of_form (fun _ p s => p && s) (by decide) (by simp)
  case srcCopy => exact mix_eq_of_form (fun _ _ s => s) (by decide) (by simp)
  case srcPaint => exact mix_eq_of_form (fun d _ s => s || d) (by decide) (by simp)
  case patCopy => exact mix_eq_of_form (fun _ p _ => p) (by decide) (by simp)
  case patPaint => exact mix_eq_of_form (fun d p s => p || !s || d) (by decide) (by simp +contextual)
  case whiteness => exact mix_eq_of_form (fun _ _ _ => true) (by decide) (fun i hi => fill_getLsbD true hi)

end Sys2Proof.Machine
end

section
/-!
PROOFS. The register file: first what the byte rows of the window do to the registers they name (R142 to R150), then
which row the record of each offset is (R94, R140), then what each offset reads as and that a written byte reads back
(R149, R160).
-/

namespace Sys2Proof.Machine

/-! ## Lanes -/

theorem lane32_setByte32 (v : Word) (l : BitVec 2) (b : Byte) : Lane32 v (setByte32 v l b) l b := by
  refine ⟨?written, ?kept⟩
  case written => rw [getByte32_setByte32, if_pos rfl]
  case kept =>
    intro k hk
    rw [getByte32_setByte32, if_neg hk]

theorem lane16_setByte16 (v : Half) (l : BitVec 1) (b : Byte) : Lane16 v (setByte16 v l b) l b := by
  refine ⟨?written, ?kept⟩
  case written => rw [getByte16_setByte16, if_pos rfl]
  case kept =>
    intro k hk
    rw [getByte16_setByte16, if_neg hk]

/-- Settles O10: each row sets its register by `setByte32` or `setByte16`, which replaces the one lane. -/
theorem plainRegisterWritesAccumulate : Obligations.PlainRegisterWritesAccumulate := by
  unfold Obligations.PlainRegisterWritesAccumulate
  intro s b
  refine ⟨fun l => ?lanes32, fun l => ?lanes16⟩
  case lanes32 =>
    have row (v : Word) := lane32_setByte32 v l b
    exact ⟨⟨_, row _, rfl⟩, ⟨_, row _, rfl⟩, ⟨_, row _, rfl⟩, ⟨_, row _, rfl⟩, ⟨_, row _, rfl⟩⟩
  case lanes16 =>
    have row (v : Half) := lane16_setByte16 v l b
    exact ⟨⟨_, row _, rfl⟩, ⟨_, row _, rfl⟩, ⟨_, row _, rfl⟩, ⟨_, row _, rfl⟩, ⟨_, row _, rfl⟩, ⟨_, row _, rfl⟩,
      ⟨_, row _, rfl⟩⟩

/-- Settles O12: the rows extend the accumulated value, and extending is idempotent. -/
theorem narrowRegistersSignExtend : Obligations.NarrowRegistersSignExtend := by
  unfold Obligations.NarrowRegistersSignExtend
  refine ⟨fun s l b => ?extended, fun v => ⟨sx13_idem v, sx14_idem v⟩⟩
  case extended =>
    have row (v : Half) := lane16_setByte16 v l b
    exact ⟨⟨_, row _, rfl⟩, ⟨_, row _, rfl⟩, ⟨_, row _, rfl⟩⟩

/-! ## The raster code, and the command word -/

/-- WR.ROP sets `rop` and what `ropWrite` derives from it. -/
theorem exec_wrRop (b : Byte) (s : State) : exec (.wrRop b) s = .next (ropWrite b s) := rfl

theorem exec_wrCommand (b : Byte) (s : State) : exec (.wrCommand b) s = .next (commandWrite b s) := rfl

theorem exec_wrCommandRop (v : Word) (s : State) : exec (.wrCommandRop v) s = .next (commandRopWrite v s) := rfl

/-- Settles O13: the row is `ropWrite`, whose second field is `useSrcOf` written out. -/
theorem ropWriteDerivesUseSrc : Obligations.RopWriteDerivesUseSrc := by
  unfold Obligations.RopWriteDerivesUseSrc
  intro s b
  rw [exec_wrRop, ropWrite, useSrcOf]

theorem byteAt_eq_extractLsb' (v : Word) (k : Nat) : byteAt v k = v.extractLsb' (8 * k) 8 := by
  apply BitVec.eq_of_getLsbD_eq
  intro i hi
  rw [byteAt_getLsbD, BitVec.getLsbD_extractLsb']

/-- Settles O19: the atomic command word is the two byte rows, on its bytes 3 and 0. -/
theorem commandRopWriteIsRopThenCommand : Obligations.CommandRopWriteIsRopThenCommand := by
  unfold Obligations.CommandRopWriteIsRopThenCommand
  intro s v
  refine ⟨_, _, exec_wrRop _ s, exec_wrCommand _ _, ?word⟩
  rw [exec_wrCommandRop, commandRopWrite, byteAt_eq_extractLsb', byteAt_eq_extractLsb']

/-! ## Pattern cells -/

/-- An array of bytes after a store at a bit-vector index, read at another. -/
theorem getElem_set_toNat {n w : Nat} (bytes : Vector Byte n) (i k : BitVec w) (hi : i.toNat < n) (hk : k.toNat < n)
    (b : Byte) : (bytes.set i.toNat b hi)[k.toNat] = if k = i then b else bytes[k.toNat] := by
  simp only [Vector.getElem_set, BitVec.toNat_inj, eq_comm (a := i)]

theorem patByte_patternWrite (j k : BitVec 7) (b : Byte) (s : State) :
    patByte (patternWrite j b s) k = if k = j then b else patByte s k := 
  getElem_set_toNat s.pattern j k j.isLt k.isLt b

theorem pat32Byte_patternWrite (j : BitVec 7) (k b : Byte) (s : State) :
    pat32Byte (patternWrite j b s) k = if k = s.pat32Idx then b else pat32Byte s k :=
  getElem_set_toNat s.pattern32 s.pat32Idx k s.pat32Idx.isLt k.isLt b

/-- Settles O14: the row is `patternWrite`, one store into each buffer and a step of the 8-bit index. -/
theorem patternWriteFillsRollingBuffer : Obligations.PatternWriteFillsRollingBuffer := by
  unfold Obligations.PatternWriteFillsRollingBuffer
  intro s j b
  refine ⟨patternWrite j b s, rfl, ?cell, ?rolling, ?index, rfl⟩
  case cell => exact fun k => patByte_patternWrite j k b s
  case rolling => exact fun k => pat32Byte_patternWrite j k b s
  case index => exact BitVec.toNat_add s.pat32Idx 1

/-! ## Undecoded offsets -/

theorem regWriteByte_of_undecodedOffset {o : Byte} (ho : undecodedOffset o = true) (b : Byte) (s : State) :
    regWriteByte o b s = s := by
  rw [regWriteByte, windowReg_of_undecodedOffset o ho]

theorem regReadByte_of_undecodedOffset {o : Byte} (ho : undecodedOffset o = true) (k : Nat) (s : State) :
    regReadByte o k s = s.cfg.undecodedRead := by
  rw [regReadByte, windowReg_of_undecodedOffset o ho]

/-- Settles O15: the rows of the undecoded offsets take the branch that reaches no register. -/
theorem undecodedOffsetsAreInert : Obligations.UndecodedOffsetsAreInert := by
  unfold Obligations.UndecodedOffsetsAreInert
  refine ⟨fun s o b ho => ⟨?write, ?read, regWriteByte_of_undecodedOffset ho b s⟩, rfl⟩
  case write => exact if_pos ho
  case read => exact if_pos ho

/-! ## Rows of the window -/

/-- The record of a well-formed instruction decodes to it, under any name the record goes by. -/
theorem decode_of_encode_eq {i : Instr} {t : Tx} (h : encode i = t) (hwf : WellFormed i = true) : decode t = .ok i :=
  h ▸ decodeEncodeRoundTrip i hwf

/-- The instruction a window row gives is recorded as a byte write, whatever its lane. -/
theorem encode_of_writeOf {r : RowName} {k : Half} {b : Byte} {i : Instr} (h : writeOf r k b = some i) :
    encode i = encodeWrite (encode i).key b := by
  cases r <;> cases h <;> rfl

/-- The byte written does not decide at which offset a row stands. -/
theorem map_key_writeOf (r : RowName) (k : Half) (b b' : Byte) :
    (writeOf r k b).map (fun i => (encode i).key) = (writeOf r k b').map (fun i => (encode i).key) := by
  cases r <;> rfl

/-- The rows of R94 cover the decoded offsets: each finds a row, and the row's instruction stands at that offset. -/
theorem key_writeOf_findRow (o : Byte) : undecodedOffset o = false →
    (findRow writeRows (o.setWidth 16)).bind
      (fun r => (writeOf r (o.setWidth 16) 0).map (fun i => (encode i).key)) = some (o.setWidth 16) := by
  decide +revert

/-- Every offset and byte is the record of a row (R94, R98, R140). -/
theorem exists_row_of_windowWrite (o b : Byte) :
    ∃ i, WellFormed i = true ∧ encode i = encodeWrite (o.setWidth 16) b := by
  cases ho : undecodedOffset o with
  | true => exact ⟨.wrUndecoded o b, ho, rfl⟩
  | false =>
    obtain ⟨r, -, hrow⟩ := Option.bind_eq_some_iff.mp (key_writeOf_findRow o ho)
    rw [map_key_writeOf r _ 0 b] at hrow
    obtain ⟨i, hi, hkey⟩ := Option.map_eq_some_iff.mp hrow
    exact ⟨i, wellFormed_of_writeOf hi, hkey ▸ encode_of_writeOf hi⟩

/-- Settles O17: the record is that of a row, and a row is the byte write at its record's offset. -/
theorem windowRowsAreRegisterByteWrites : Obligations.WindowRowsAreRegisterByteWrites := by
  unfold Obligations.WindowRowsAreRegisterByteWrites
  intro s o b
  obtain ⟨i, hwf, hrec⟩ := exists_row_of_windowWrite o b
  refine ⟨i, decode_of_encode_eq hrec hwf, ?effect⟩
  rw [exec_of_windowWrite (by rw [hrec]; rfl) s, hrec, encodeWrite, setWidth_setWidth_byte o (by decide),
    setWidth_setWidth_byte b (by decide)]

/-- The lane fits in the two low bits, which the offsets of the colour registers leave 0 (R93, R95). -/
theorem colour_base_add_lane (l : BitVec 2) :
    (0x78 : Half) + l.setWidth 16 = 0x78 ||| l.setWidth 16 ∧ (0x7C : Half) + l.setWidth 16 = 0x7C ||| l.setWidth 16 ∧
    (0x2C : Half) + l.setWidth 16 = 0x2C ||| l.setWidth 16 ∧
    (0x30 : Half) + l.setWidth 16 = 0x30 ||| l.setWidth 16 := by decide +revert

/-- Settles O11: the four rows decode from their offsets, and a mirror's row sets the register itself. -/
theorem colourMirrorsAreTheRegisters : Obligations.ColourMirrorsAreTheRegisters := by
  unfold Obligations.ColourMirrorsAreTheRegisters
  intro s l b
  obtain ⟨hfgMirror, hbgMirror, hfg, hbg⟩ := colour_base_add_lane l
  rw [hfgMirror, hbgMirror, hfg, hbg]
  exact ⟨decodeEncodeRoundTrip (.wrFgColMirror l b) rfl, decodeEncodeRoundTrip (.wrBgColMirror l b) rfl,
    decodeEncodeRoundTrip (.wrFgCol l b) rfl, decodeEncodeRoundTrip (.wrBgCol l b) rfl,
    ⟨_, lane32_setByte32 s.fgCol l b, rfl, rfl⟩, ⟨_, lane32_setByte32 s.bgCol l b, rfl, rfl⟩⟩

/-! ## Command rows -/

/-- The command row of a code (R104). -/
def commandRow (code : Byte) : Instr :=
  if code = 1 then .bitblt else if code = 3 then .scanline else if code = 4 then .bresenham
  else if code = 5 then .shortvec else if code = 6 then .fastline else .nopCmd code

theorem encode_commandRow (code : Byte) : encode (commandRow code) = encodeCommand code := by
  unfold commandRow
  split_ifs with h1 h3 h4 h5 h6
  · rw [h1]; rfl
  · rw [h3]; rfl
  · rw [h4]; rfl
  · rw [h5]; rfl
  · rw [h6]; rfl
  · rfl

theorem wellFormed_commandRow (code : Byte) : WellFormed (commandRow code) = true := by
  unfold commandRow
  split_ifs with h1 h3 h4 h5 h6
  iterate 5 rfl
  simpa [WellFormed, namedCommandCode] using ⟨⟨⟨⟨h1, h3⟩, h4⟩, h5⟩, h6⟩

/-- Settles O18: the record is that of `commandRow`, and a command row is its code written to the command register. -/
theorem commandWriteRunsItsRow : Obligations.CommandWriteRunsItsRow := by
  unfold Obligations.CommandWriteRunsItsRow
  intro s b
  have hrec := encode_commandRow b
  refine ⟨commandRow b, commandWrite b s, decode_of_encode_eq hrec (wellFormed_commandRow b), rfl, ?effect,
    exec_wrCommand b s⟩
  rw [exec_of_command (.inl (by rw [hrec]; rfl)) s, hrec, encodeCommand, setWidth_setWidth_byte b (by decide)]

/-! ## Window reads -/

/-- RD.WINDOW hands over the register byte and changes nothing of the block (R72, R149). -/
theorem reads_rdWindow {o b : Byte} {s : State} (h : regReadByte o 0 s = b) :
    Reads (.rdWindow o) s (b.setWidth 32) := by
  rw [← h]
  rfl

/-- The offset of a lane, cut from the width of a record's key to its own. -/
theorem setWidth_base_or (base : Half) {w : Nat} (l : BitVec w) :
    (base ||| l.setWidth 16).setWidth 8 = base.setWidth 8 ||| l.setWidth 8 := by
  rw [BitVec.setWidth_or, BitVec.setWidth_setWidth_of_le _ (by decide)]

/-- Settles O20: the map's register at each offset, and the byte of it that `regReadByte` returns. -/
theorem windowReadsReturnRegisters : Obligations.WindowReadsReturnRegisters := by
  unfold Obligations.WindowReadsReturnRegisters
  intro s
  refine ⟨reads_rdWindow rfl, reads_rdWindow rfl, fun l => ?lanes32, fun l => ?lanes16, fun j => ?cell,
    fun o ho => reads_rdWindow (regReadByte_of_undecodedOffset ho 0 s)⟩
  case lanes32 =>
    have hreg := windowReg_lane32 l
    simp only [setWidth_base_or, BitVec.reduceSetWidth, BitVec.ofNat_eq_ofNat] at hreg ⊢
    refine ⟨?_, ?_, ?_, ?_, ?_, ?_, ?_⟩ <;> exact reads_rdWindow (by simp only [regReadByte, hreg])
  case lanes16 =>
    have hreg := windowReg_lane16 l
    simp only [setWidth_base_or, BitVec.reduceSetWidth, BitVec.ofNat_eq_ofNat] at hreg ⊢
    refine ⟨?_, ?_, ?_, ?_, ?_, ?_, ?_, ?_, ?_, ?_⟩ <;> exact reads_rdWindow (by simp only [regReadByte, hreg])
  case cell =>
    have hreg := windowReg_patternCell j
    simp only [setWidth_base_or, BitVec.reduceSetWidth, BitVec.ofNat_eq_ofNat] at hreg ⊢
    exact reads_rdWindow (by rw [regReadByte, hreg])

/-! ## Read after write -/

theorem windowReg_eq_undecoded_iff (o : Byte) : windowReg o = .undecoded ↔ undecodedOffset o = true := by
  decide +revert

/-- The high bytes of the sign-extended registers (R94, R146). -/
theorem windowReg_eq_highByte_iff (o : Byte) :
    (windowReg o = .srcX 1 ↔ o = 0x3D) ∧ (windowReg o = .srcY 1 ↔ o = 0x3F) ∧
    (windowReg o = .sizeX 1 ↔ o = 0x41) := by decide +revert

theorem getByte16_or (v w : Half) (l : BitVec 1) : getByte16 (v ||| w) l = getByte16 v l ||| getByte16 w l := by
  rw [getByte16, BitVec.ushiftRight_or_distrib, BitVec.setWidth_or]
  rfl

/-- Bit `n` of a register's high byte. -/
theorem getByte16_one_getLsbD (v : Half) {n : Nat} (hn : n < 8) : (getByte16 v 1).getLsbD n = v.getLsbD (8 + n) := by
  rw [getByte16, BitVec.getLsbD_setWidth, BitVec.getLsbD_ushiftRight, decide_eq_true hn, Bool.true_and]
  rfl

/-- What an extension by high bits under a sign bit does to each byte: the low one stays, the high one takes the mask
(R146). -/
theorem getByte16_extend {ext v : Half} {m : Byte} {n : Nat} (hn : n < 8) (hlow : getByte16 ext 0 = 0)
    (hhigh : getByte16 ext 1 = m) (l : BitVec 1) :
    getByte16 (if v.getLsbD (8 + n) then v ||| ext else v) l =
      if l = 1 ∧ (getByte16 v l).getLsbD n = true then getByte16 v l ||| m else getByte16 v l := by
  have hlane : l = 0 ∨ l = 1 := by decide +revert
  rcases hlane with rfl | rfl
  · have hkept : getByte16 (v ||| ext) 0 = getByte16 v 0 := by rw [getByte16_or, hlow]; exact BitVec.or_zero
    rw [apply_ite (getByte16 · 0), hkept, ite_self, if_neg (by simp)]
  · rw [getByte16_one_getLsbD v hn, apply_ite (getByte16 · 1), getByte16_or, hhigh]
    simp only [true_and]

theorem getByte16_sx13 (v : Half) (l : BitVec 1) :
    getByte16 (sx13 v) l =
      if l = 1 ∧ (getByte16 v l).getLsbD 4 = true then getByte16 v l ||| 0xE0 else getByte16 v l :=
  getByte16_extend (ext := 0xE000) (n := 4) (by decide) rfl rfl l

theorem getByte16_sx14 (v : Half) (l : BitVec 1) :
    getByte16 (sx14 v) l =
      if l = 1 ∧ (getByte16 v l).getLsbD 5 = true then getByte16 v l ||| 0xC0 else getByte16 v l :=
  getByte16_extend (ext := 0xC000) (n := 5) (by decide) rfl rfl l

/-- A byte written to a register reads back, but for the sign bits it brings into a sign-extended one (R146, R160). -/
theorem regReadByte_regWriteByte {o : Byte} (hc : windowReg o ≠ .command) (hu : windowReg o ≠ .undecoded) (b : Byte)
    (k : Nat) (s : State) :
    regReadByte o k (regWriteByte o b s) =
      if (windowReg o = .srcX 1 ∨ windowReg o = .srcY 1) ∧ b.getLsbD 4 = true then b ||| 0xE0
      else if windowReg o = .sizeX 1 ∧ b.getLsbD 5 = true then b ||| 0xC0 else b := by
  unfold regReadByte regWriteByte
  cases hr : windowReg o with
  | command => exact absurd hr hc
  | undecoded => exact absurd hr hu
  | rop => rfl
  | flags l | fgCol l | bgCol l | style l | ckey l => simp [getByte32_setByte32]
  | srcX l | srcY l => simp [getByte16_sx13, getByte16_setByte16]
  | sizeX l => simp [getByte16_sx14, getByte16_setByte16]
  | dstX l | dstY l | sizeY l | clipLeft l | clipTop l | clipRight l | clipBottom l => simp [getByte16_setByte16]
  | pattern j => simp [patByte_patternWrite]

/-- Settles O16: the record's row is the register byte write, and what the write leaves is read. -/
theorem registerRoundTrip : Obligations.RegisterRoundTrip := by
  unfold Obligations.RegisterRoundTrip
  intro s o b hdec hne
  obtain ⟨i, hi, heff⟩ := windowRowsAreRegisterByteWrites s o b
  obtain ⟨hsrcX, hsrcY, hsizeX⟩ := windowReg_eq_highByte_iff o
  have hc : windowReg o ≠ .command := fun h => hne ((windowReg_eq_command_iff o).mp h)
  have hu : windowReg o ≠ .undecoded := fun h => by simp [(windowReg_eq_undecoded_iff o).mp h] at hdec
  refine ⟨i, _, hi, heff, reads_rdWindow ?_⟩
  simp only [regReadByte_regWriteByte hc hu, hsrcX, hsrcY, hsizeX]

end Sys2Proof.Machine
end

section
/-!
PROOFS. The ports: first what the index, data and bank ports store and return (R155 to R157), then which port an I/O
byte reaches (R154), then the I/O transactions, a byte at a time for writes and assembled for reads.
-/

namespace Sys2Proof.Machine

/-! ## Port rows -/

/-- A store into each bank, read back at any index (R155). -/
theorem bankByte_seqStore (v i : Byte) (s : State) :
    bankByte (seqStore v s) .seq i = if i = s.seqIdx then v else bankByte s .seq i :=
  getElem_set_toNat s.seq s.seqIdx i s.seqIdx.isLt i.isLt v

theorem bankByte_gdcStore (v i : Byte) (s : State) :
    bankByte (gdcStore v s) .gdc i = if i = s.gdcIdx then v else bankByte s .gdc i :=
  getElem_set_toNat s.gdc s.gdcIdx i s.gdcIdx.isLt i.isLt v

theorem bankByte_crtcStore (v i : Byte) (s : State) :
    bankByte (crtcStore v s) .crtc i = if i = s.crtcIdx then v else bankByte s .crtc i :=
  getElem_set_toNat s.crtc s.crtcIdx i s.crtcIdx.isLt i.isLt v

theorem inTimingIndices_of_all {cfg : Config} (h : cfg.timingIndices = .all) (i : Byte) :
    inTimingIndices cfg i = true := by
  rw [inTimingIndices, h]

theorem inTimingIndices_of_only {cfg : Config} {is : List Byte} (h : cfg.timingIndices = .only is) (i : Byte) :
    inTimingIndices cfg i = true ↔ i ∈ is := by
  rw [inTimingIndices, h]
  exact List.contains_iff_mem

/-- Settles O21: an index port is a field, a data port a store at the index, and the count a case split on
`TIMING_INDICES`. -/
theorem indexedPortsStoreAndRead : Obligations.IndexedPortsStoreAndRead := by
  unfold Obligations.IndexedPortsStoreAndRead
  intro s v
  refine ⟨rfl, rfl, rfl, rfl, rfl, rfl, rfl, rfl, rfl, ⟨_, rfl, rfl, fun i => bankByte_seqStore v i s⟩,
    ⟨_, rfl, rfl, fun i => bankByte_gdcStore v i s⟩,
    ⟨crtcStore v s, rfl, rfl, fun i => bankByte_crtcStore v i s, ?count⟩⟩
  case count =>
    rw [crtcStore_recalcs]
    cases h : s.cfg.timingIndices with
    | all => exact if_pos (inTimingIndices_of_all h _)
    | only is => simp only [inTimingIndices_of_only h]

/-- The low six bits of a bank register as a number (R33). -/
theorem setWidth_six (v : Byte) : (v.setWidth 6).setWidth 32 = BitVec.ofNat 32 (v.toNat % 64) := by
  apply BitVec.eq_of_toNat_eq
  rw [BitVec.toNat_setWidth, BitVec.toNat_setWidth, BitVec.toNat_ofNat]

/-- Settles O22: each row sets its own register, from which its bank alone is computed. -/
theorem bankPortsSetBankOffsets : Obligations.BankPortsSetBankOffsets := by
  unfold Obligations.BankPortsSetBankOffsets
  intro s v
  refine ⟨⟨{ s with wbankReg := v }, rfl, rfl, ?write, rfl, rfl⟩,
    ⟨{ s with rbankReg := v }, rfl, rfl, ?read, rfl, rfl⟩, rfl, rfl⟩
  case write => rw [writeBank, setWidth_six]
  case read => rw [readBank, setWidth_six]

/-! ## Which port a byte reaches -/

theorem isAccelPort_iff {q : Half} : isAccelPort q = true ↔ 0x2120 ≤ q.toNat ∧ q.toNat ≤ 0x21FF := decide_eq_true_iff

theorem isAccelPort_eq_false {q : Half} (h : q.toNat < 0x2120 ∨ 0x21FF < q.toNat) : isAccelPort q = false :=
  decide_eq_false (by omega)

/-- Off the index and data ports, the binding decides, the write bank first (R156; notes/assumptions/10.md). -/
theorem vgaPort_of_not_indexed {q : Half} (h : q ∉ ([0x3C4, 0x3C5, 0x3CE, 0x3CF, 0x3D4, 0x3D5] : List Half))
    (cfg : Config) :
    vgaPort cfg q = if q = cfg.binding.wbankPort then some .wbank
      else if q = cfg.binding.rbankPort then some .rbank else none := by
  simp only [List.mem_cons, List.not_mem_nil, or_false, not_or] at h
  obtain ⟨hsi, hsd, hgi, hgd, hci, hcd⟩ := h
  rw [vgaPort, if_neg hsi, if_neg hsd, if_neg hgi, if_neg hgd, if_neg hci, if_neg hcd]

theorem ioWriteByte_of_accel {q : Half} (h : isAccelPort q = true) (b : Byte) (s : State) :
    ioWriteByte q b s = regWriteByte ((q - 0x2100).setWidth 8) b s := if_pos h

theorem ioWriteByte_of_vga {q : Half} {p : VgaPort} {s : State} (ha : isAccelPort q = false)
    (hv : vgaPort s.cfg q = some p) (b : Byte) : ioWriteByte q b s = vgaWriteByte p b s := by
  simp only [ioWriteByte, ha, hv, Bool.false_eq_true, if_false]

theorem ioWriteByte_of_unclaimed {q : Half} {s : State} (ha : isAccelPort q = false) (hv : vgaPort s.cfg q = none)
    (b : Byte) : ioWriteByte q b s = s := by
  simp only [ioWriteByte, ha, hv, Bool.false_eq_true, if_false]

theorem ioReadByte_of_accel {q : Half} (h : isAccelPort q = true) (k : Nat) (s : State) :
    ioReadByte q k s = regReadByte ((q - 0x2100).setWidth 8) k s := if_pos h

theorem ioReadByte_of_vga {q : Half} {p : VgaPort} {s : State} (ha : isAccelPort q = false)
    (hv : vgaPort s.cfg q = some p) (k : Nat) : ioReadByte q k s = vgaReadByte p k s := by
  simp only [ioReadByte, ha, hv, Bool.false_eq_true, if_false]

theorem ioReadByte_of_unclaimed {q : Half} {s : State} (ha : isAccelPort q = false) (hv : vgaPort s.cfg q = none)
    (k : Nat) : ioReadByte q k s = Config.freeByte s.draws k := by
  simp only [ioReadByte, ha, hv, Bool.false_eq_true, if_false]

/-! ## I/O writes -/

theorem exec_ioWrite (q : Half) (n : Width) (v : Word) (s : State) :
    exec (.ioWrite q n v) s = .next (ioWrite q n v s) := rfl

/-- Off the command word an I/O write is its bytes (R154). -/
theorem ioWrite_of_bytes {q : Half} {n : Width} (h : ¬ (q = 0x2124 ∧ n = .b4)) (v : Word) (s : State) :
    ioWrite q n v s = ioWriteBytes q (bytesOf n.bytes v) s := if_neg h

theorem bytesOf_width_two (v : Word) : bytesOf Width.b2.bytes v = [v.setWidth 8, (v >>> 8).setWidth 8] := by
  simp [bytesOf, byteAt, Width.bytes, List.range_succ]

theorem bytesOf_width_four (v : Word) :
    bytesOf Width.b4.bytes v =
      [v.setWidth 8, (v >>> 8).setWidth 8, (v >>> 16).setWidth 8, (v >>> 24).setWidth 8] := by
  simp [bytesOf, byteAt, Width.bytes, List.range_succ]

/-- A byte write is the low byte of its datum at its port (R154). -/
theorem exec_ioWrite_byte (q : Half) (v : Word) (s : State) :
    exec (.ioWrite q .b1 v) s = .next (ioWriteByte q (v.setWidth 8) s) := by
  have hbytes : bytesOf Width.b1.bytes v = [v.setWidth 8] := by simp [bytesOf, byteAt, Width.bytes]
  rw [exec_ioWrite, ioWrite_of_bytes (by simp), hbytes]
  rfl

/-- Settles O23: a byte's port is the window's, that of an index/data pair, or as the binding has it. -/
theorem ioByteWritesAreDecoded : Obligations.IoByteWritesAreDecoded := by
  unfold Obligations.IoByteWritesAreDecoded
  intro s p b
  have io (q : Half) : exec (.ioWrite q .b1 (b.setWidth 32)) s = .next (ioWriteByte q b s) := by
    rw [exec_ioWrite_byte, setWidth_setWidth_byte b (by decide)]
  have vga {q : Half} (r : VgaPort) (ha : isAccelPort q = false) (hv : vgaPort s.cfg q = some r) :
      exec (.ioWrite q .b1 (b.setWidth 32)) s = .next (vgaWriteByte r b s) := by
    rw [io, ioWriteByte_of_vga ha hv]
  refine ⟨?accel, ⟨_, rfl, vga .seqIdx rfl rfl⟩, ⟨_, rfl, vga .seqData rfl rfl⟩, ⟨_, rfl, vga .gdcIdx rfl rfl⟩,
    ⟨_, rfl, vga .gdcData rfl rfl⟩, ⟨_, rfl, vga .crtcIdx rfl rfl⟩, ⟨_, rfl, vga .crtcData rfl rfl⟩, ?other⟩
  case accel =>
    intro hp
    obtain ⟨i, hi, heff⟩ := windowRowsAreRegisterByteWrites s ((p - 0x2100).setWidth 8) b
    exact ⟨i, _, hi, heff, by rw [io, ioWriteByte_of_accel (isAccelPort_iff.mpr hp)]⟩
  case other =>
    intro hp hidx
    have ha := isAccelPort_eq_false hp
    have hv := vgaPort_of_not_indexed hidx s.cfg
    split_ifs at hv ⊢
    · exact vga .wbank ha hv
    · exact vga .rbank ha hv
    · rw [io, ioWriteByte_of_unclaimed ha hv]

/-- Cutting a datum to its low byte does not change that byte. -/
theorem setWidth_and_ones (v : Word) : (v &&& 0xFF).setWidth 8 = v.setWidth 8 := by
  rw [BitVec.setWidth_and]
  exact BitVec.and_allOnes

theorem exec_ioWrite_lowByte (q : Half) (v : Word) (s : State) :
    exec (.ioWrite q .b1 (v &&& 0xFF)) s = .next (ioWriteByte q (v.setWidth 8) s) := by
  rw [exec_ioWrite_byte, setWidth_and_ones]

/-- Settles O24: the bytes of the datum in order, each at the next port, but for the branch of the command word. -/
theorem ioWideWritesDecompose : Obligations.IoWideWritesDecompose := by
  unfold Obligations.IoWideWritesDecompose
  intro s p v
  refine ⟨?word, fun hp => ?long, ⟨_, rfl, ?commandWord⟩⟩
  case word =>
    refine ⟨_, _, exec_ioWrite_lowByte p v s, exec_ioWrite_lowByte (p + 1) (v >>> 8) _, ?_⟩
    rw [exec_ioWrite, ioWrite_of_bytes (by simp), bytesOf_width_two]
    rfl
  case long =>
    refine ⟨_, _, _, _, exec_ioWrite_lowByte p v s, exec_ioWrite_lowByte (p + 1) (v >>> 8) _,
      exec_ioWrite_lowByte (p + 2) (v >>> 16) _, exec_ioWrite_lowByte (p + 3) (v >>> 24) _, ?_⟩
    have hport2 : p + 1 + 1 = p + 2 := BitVec.add_assoc p 1 1
    have hport3 : p + 2 + 1 = p + 3 := BitVec.add_assoc p 2 1
    rw [exec_ioWrite, ioWrite_of_bytes (fun h => hp h.1), bytesOf_width_four]
    simp only [ioWriteBytes, hport2, hport3]
  case commandWord => exact congrArg Host.Outcome.next (if_pos ⟨rfl, rfl⟩)

/-! ## I/O reads -/

/-- IoRead hands over the assembled ports and changes nothing of the block (R72, R154). -/
theorem reads_ioRead (p : Half) (n : Width) (s : State) : Reads (.ioRead p n) s (ioRead p n s) := rfl

theorem ioRead_byte (p : Half) (s : State) : ioRead p .b1 s = (ioReadByte p 0 s).setWidth 32 := by
  simp [ioRead, Width.bytes, wordOfBytes]

theorem width_bytes_le (n : Width) : n.bytes ≤ 4 := by cases n <;> decide

/-- Byte `k` of a read is the byte of its port (R154). -/
theorem byteAt_ioRead (p : Half) {n : Width} {k : Nat} (hk : k < n.bytes) (s : State) :
    byteAt (ioRead p n s) k = ioReadByte (p + BitVec.ofNat 16 k) k s := by
  rw [ioRead, byteAt_wordOfBytes _ (Nat.lt_of_lt_of_le hk (width_bytes_le n))]
  simp [hk]

/-- An assembled value fits in its bytes (R13). -/
theorem wordOfBytes_lt (bs : List Byte) : (wordOfBytes bs).toNat < 2 ^ (8 * bs.length) := by
  induction bs with
  | nil => decide
  | cons b bs ih =>
    have hb := b.isLt
    rw [wordOfBytes_cons_eq_add, List.length_cons, Nat.mul_succ, pow_add]
    simp only [BitVec.toNat_add, BitVec.toNat_mul, BitVec.toNat_setWidth, BitVec.ofNat_eq_ofNat, BitVec.toNat_ofNat]
    omega

/-- Settles O25: a read assembles the bytes of its ports, and a port's byte is its row's. -/
theorem ioReadsAssemblePorts : Obligations.IoReadsAssemblePorts := by
  unfold Obligations.IoReadsAssemblePorts
  intro s p
  have io {q : Half} {b : Byte} (h : ioReadByte q 0 s = b) : Reads (.ioRead q .b1) s (b.setWidth 32) := by
    rw [← h, ← ioRead_byte]
    exact reads_ioRead q .b1 s
  have vga {q : Half} (r : VgaPort) (ha : isAccelPort q = false) (hv : vgaPort s.cfg q = some r) :
      Reads (.ioRead q .b1) s ((vgaReadByte r 0 s).setWidth 32) := io (ioReadByte_of_vga ha hv 0)
  refine ⟨fun n => ⟨_, reads_ioRead p n s, ?fits, fun k hk => byteAt_ioRead p hk s⟩, ?accel,
    ⟨_, rfl, vga .seqIdx rfl rfl⟩, ⟨_, rfl, vga .seqData rfl rfl⟩, ⟨_, rfl, vga .gdcIdx rfl rfl⟩,
    ⟨_, rfl, vga .gdcData rfl rfl⟩, ⟨_, rfl, vga .crtcIdx rfl rfl⟩, ⟨_, rfl, vga .crtcData rfl rfl⟩, ?other⟩
  case fits =>
    have hlt := wordOfBytes_lt ((List.range n.bytes).map fun k => ioReadByte (p + BitVec.ofNat 16 k) k s)
    rwa [List.length_map, List.length_range] at hlt
  case accel => exact fun hp => ⟨_, rfl, io (ioReadByte_of_accel (isAccelPort_iff.mpr hp) 0 s)⟩
  case other =>
    intro hp hidx
    have ha := isAccelPort_eq_false hp
    have hv := vgaPort_of_not_indexed hidx s.cfg
    have hfree : ioReadByte p 0 s = Config.freeByte s.draws 0 := by
      split_ifs at hv
      · exact ioReadByte_of_vga ha hv 0
      · exact ioReadByte_of_vga ha hv 0
      · exact ioReadByte_of_unclaimed ha hv 0
    exact ⟨fun _ => ⟨_, rfl, io hfree⟩, fun _ => ⟨_, rfl, io hfree⟩, fun _ _ => io hfree⟩

end Sys2Proof.Machine
end

section
/-!
PROOFS. The address router: which bits the mapping-control fields are (R34), which apertures are active and with what
ranges (R172 to R177), the precedence among them (R178), and what the set depends on (R170, R190).
-/

namespace Sys2Proof.Machine

/-! ## Mapping-control fields -/

/-- Bit `k` of a field is bit `lo + k` of its bank byte (R34). -/
theorem bankField_getLsbD (s : State) (l : BitLoc) {w k : Nat} (hk : k < w) :
    (bankField s l w).getLsbD k = (bankByte s l.bank l.index).getLsbD (l.lo + k) := by
  simp [bankField, hk]

/-- A field of one bit is set exactly when its bit is. -/
theorem bankField_one_beq (s : State) (l : BitLoc) :
    (bankField s l 1 == 1) = (bankByte s l.bank l.index).getLsbD l.lo := by
  have hbit : ∀ x : BitVec 1, (x == 1) = x.getLsbD 0 := by decide
  rw [hbit, bankField_getLsbD s l one_pos, Nat.add_zero]

theorem two_bit_cases (x : BitVec 2) : x = 0 ∨ x = 1 ∨ x = 2 ∨ x = 3 := by decide +revert

theorem subMode_of_not_gen0 {s : State} (h : s.cfg.gen ≠ .gen0) : subMode s = .normal := by
  simp [subMode, hasGen0SubModes, h]

theorem subMode_of_unbound {s : State} (h : s.cfg.binding.subMode = none) : subMode s = .normal := by
  simp [subMode, h]

/-- A bound sub-mode is the one its two bits name (R34, R110; notes/assumptions/10.md). -/
theorem subMode_of_bound {s : State} {l : SubModeLoc} (hgen : s.cfg.gen = .gen0)
    (hbound : s.cfg.binding.subMode = some l) :
    subMode s =
      match (bankByte s l.loc.bank l.loc.index).getLsbD (l.loc.lo + 1),
        (bankByte s l.loc.bank l.loc.index).getLsbD l.loc.lo with
      | false, false => .normal
      | false, true => l.one
      | true, false => l.two
      | true, true => l.three := by
  have hlow := bankField_getLsbD s l.loc (w := 2) (k := 0) (by decide)
  rw [Nat.add_zero] at hlow
  have hgen0 : hasGen0SubModes s.cfg = true := decide_eq_true hgen
  rw [← bankField_getLsbD s l.loc (w := 2) (k := 1) (by decide), ← hlow, subMode, if_pos hgen0, hbound]
  dsimp only
  generalize bankField s l.loc 2 = x
  rcases two_bit_cases x with rfl | rfl | rfl | rfl <;> rfl

/-! ## The aperture set -/

theorem memEnabled_iff {s : State} : memEnabled s = true ↔ s.cfg.isPci = false ∨ s.pciMemEn = true := by
  simp [memEnabled]

theorem linearBaseOf_of_pci {s : State} (h : s.cfg.isPci = true) : linearBaseOf s = s.linearBase := if_pos h

/-- The windows of R174, one for each value of `map_sel`. -/
theorem bankedWindow_eq (sel : BitVec 2) :
    bankedWindow sel = if sel = 0 then ⟨.banked, 0xA0000, 0x20000⟩ else if sel = 1 then ⟨.banked, 0xA0000, 0x10000⟩
      else if sel = 2 then ⟨.banked, 0xB0000, 0x8000⟩ else ⟨.banked, 0xB8000, 0x8000⟩ := by
  decide +revert

theorem bankedWindow_kind (sel : BitVec 2) : (bankedWindow sel).kind = .banked := by decide +revert

/-- The bases of R176, one for each nonzero value of `accel_sel`. -/
theorem accelBase_eq (cfg : Config) (sel : BitVec 2) :
    accelBase cfg sel =
      if sel = 1 then cfg.accelFixedBase1 else if sel = 2 then cfg.accelFixedBase2 else cfg.geBase := by
  rcases two_bit_cases sel with rfl | rfl | rfl | rfl <;> rfl

/-- The range a kind of aperture has where it is active (R172). -/
def apertureOf (s : State) : ApKind → Aperture
  | .banked => bankedWindow (mapSel s)
  | .linear => ⟨.linear, linearBaseOf s, s.cfg.vramSize.bytes⟩
  | .accel => ⟨.accel, accelBase s.cfg (accelSel s), s.cfg.accelApertureSize.toNat⟩
  | .mmio => ⟨.mmio, s.mmioBase, 0x10000⟩

/-- The condition of R172 on each kind of aperture, besides the memory-space enable. -/
def ActiveKind (s : State) : ApKind → Prop
  | .banked => linEn s = false
  | .linear => linEn s = true ∨ s.cfg.isPci = true ∧ s.linearBase ≠ 0
  | .accel => accelSel s ≠ 0 ∧ (linEn s = true ∨ s.cfg.accelInBanked = true)
  | .mmio => s.cfg.hasMmio = true ∧ mmioEn s = true

theorem linear_active_iff {s : State} :
    (linEn s || (s.cfg.isPci && linearBaseOf s != 0)) = true ↔ ActiveKind s .linear := by
  simp only [Bool.or_eq_true, Bool.and_eq_true, bne_iff_ne, ActiveKind]
  exact or_congr_right (and_congr_right fun hpci => by rw [linearBaseOf_of_pci hpci])

theorem exists_apKind_iff {P : ApKind → Prop} : (∃ k, P k) ↔ P .banked ∨ P .linear ∨ P .accel ∨ P .mmio := by
  constructor
  · rintro ⟨k, hk⟩
    cases k with
    | banked => exact .inl hk
    | linear => exact .inr (.inl hk)
    | accel => exact .inr (.inr (.inl hk))
    | mmio => exact .inr (.inr (.inr hk))
  · rintro (h | h | h | h) <;> exact ⟨_, h⟩

/-- The aperture set holds the aperture of each kind whose condition holds, and nothing else (R172). -/
theorem mem_mapOf {s : State} {p : Aperture} :
    p ∈ mapOf s ↔ memEnabled s = true ∧ ∃ k, ActiveKind s k ∧ p = apertureOf s k := by
  rw [mapOf, exists_apKind_iff]
  simp only [List.mem_ite_nil_right, List.mem_append, List.mem_ite_nil_left, List.mem_singleton, linear_active_iff,
    or_assoc]
  simp [ActiveKind, apertureOf]

theorem apertureOf_kind (s : State) (k : ApKind) : (apertureOf s k).kind = k := by
  cases k with
  | banked => exact bankedWindow_kind _
  | linear | accel | mmio => rfl

/-- Two active apertures of one kind are the same. -/
theorem eq_of_mem_mapOf_of_kind_eq {s : State} {p q : Aperture} (hp : p ∈ mapOf s) (hq : q ∈ mapOf s)
    (hk : p.kind = q.kind) : p = q := by
  obtain ⟨-, k, -, rfl⟩ := mem_mapOf.mp hp
  obtain ⟨-, l, -, rfl⟩ := mem_mapOf.mp hq
  rw [apertureOf_kind, apertureOf_kind] at hk
  rw [hk]

theorem mapOf_of_disabled {s : State} (h : memEnabled s = false) : mapOf s = [] := by
  simp [mapOf, h]

/-- Settles O27: the fields are bits of their bank bytes, and the members of the aperture set are read off kind by
kind. -/
theorem activeApertures : Obligations.ActiveApertures := by
  unfold Obligations.ActiveApertures
  refine ⟨fun s => ⟨bankField_one_beq s _, bankField_one_beq s _, fun k hk => bankField_getLsbD s _ hk,
    fun k hk => bankField_getLsbD s _ hk, ?normal, ?bound⟩, fun _ _ => rfl, ?apertures⟩
  case normal => exact fun h => h.elim subMode_of_not_gen0 subMode_of_unbound
  case bound => exact fun l hgen hbound => subMode_of_bound hgen hbound
  case apertures =>
    intro s p
    rw [mem_mapOf, memEnabled_iff, exists_apKind_iff]
    simp only [ActiveKind, apertureOf, bankedWindow_eq, accelBase_eq, linearBaseOf, and_assoc]

/-! ## The route of an address -/

/-- An active aperture that holds the address is the one its kind is searched for (R178). -/
theorem hit_of_mem {s : State} {p : Aperture} {a : Word} (hp : p ∈ mapOf s) (ha : p.holds a = true) :
    hit s p.kind a = some (a - p.base) := by
  have hfound : (mapOf s).find? (fun q => decide (q.kind = p.kind) && q.holds a) = some p := by
    cases hf : (mapOf s).find? (fun q => decide (q.kind = p.kind) && q.holds a) with
    | none => simpa [ha] using List.find?_eq_none.mp hf p hp
    | some q =>
      have hq : q.kind = p.kind ∧ q.holds a = true := by simpa using List.find?_some hf
      rw [eq_of_mem_mapOf_of_kind_eq (List.mem_of_find?_eq_some hf) hp hq.1]
  rw [hit, hfound, Option.map_some]

theorem hit_eq_none {s : State} {k : ApKind} {a : Word} (h : ∀ q ∈ mapOf s, q.kind = k → q.holds a = false) :
    hit s k a = none := by
  simpa [hit] using h

/-- The route reads the aperture set and nothing else of the state (R178). -/
theorem route_congr {s t : State} (h : mapOf s = mapOf t) (a : Word) : route s a = route t a := by
  have hhit (k : ApKind) : hit s k a = hit t k a := by rw [hit, hit, h]
  simp only [route, hhit]

theorem route_of_accel {s : State} {a d : Word} (h : hit s .accel a = some d) : route s a = .accel (d.setWidth 8) := by
  simp only [route, h]

theorem route_of_mmio {s : State} {a d : Word} (haccel : hit s .accel a = none) (h : hit s .mmio a = some d) :
    route s a = .mmio (d.setWidth 16) := by
  simp only [route, haccel, h]

theorem route_of_linear {s : State} {a d : Word} (haccel : hit s .accel a = none) (hmmio : hit s .mmio a = none)
    (h : hit s .linear a = some d) : route s a = .linear d := by
  simp only [route, haccel, hmmio, h]

theorem route_of_banked {s : State} {a d : Word} (haccel : hit s .accel a = none) (hmmio : hit s .mmio a = none)
    (hlinear : hit s .linear a = none) (h : hit s .banked a = some d) : route s a = .banked d := by
  simp only [route, haccel, hmmio, hlinear, h]

theorem route_of_no_aperture {s : State} {a : Word} (h : ∀ p ∈ mapOf s, p.holds a = false) :
    route s a = .unclaimed := by
  have hnone (k : ApKind) : hit s k a = none := hit_eq_none fun q hq _ => h q hq
  simp only [route, hnone]

/-- Settles O28: the search for each kind finds its one aperture or none, in the order the route tries them. -/
theorem routePrecedence : Obligations.RoutePrecedence := by
  unfold Obligations.RoutePrecedence
  intro s a
  refine ⟨fun p hp ha => ?held, route_of_no_aperture⟩
  have hhit := hit_of_mem hp ha
  refine ⟨fun hk => ?accel, fun hk hno => ?mmio, fun hk hno => ?linear, fun hk hno => ?banked⟩ <;> rw [hk] at hhit
  case accel => exact route_of_accel hhit
  case mmio => exact route_of_mmio (hit_eq_none hno) hhit
  case linear =>
    exact route_of_linear (hit_eq_none fun q hq hqk => hno q hq (.inl hqk))
      (hit_eq_none fun q hq hqk => hno q hq (.inr hqk)) hhit
  case banked =>
    have hother {k : ApKind} (hne : k ≠ .banked) : hit s k a = none :=
      hit_eq_none fun q hq hqk => hno q hq (hqk ▸ hne)
    exact route_of_banked (hother (by decide)) (hother (by decide)) (hother (by decide)) hhit

/-! ## PCI events -/

/-- On the PCI bus the memory-space enable follows its event (R171). -/
theorem exec_pciSetMemEnable {s : State} (h : s.cfg.isPci = true) (b : Bool) :
    exec (.pciSetMemEnable b) s = .next { s with pciMemEn := b } := if_pos h

/-- A BAR event on the PCI bus: BAR 0 and BAR 1 are the two bases, any other BAR is nothing (R171). -/
theorem exec_pciSetBar {s : State} (h : s.cfg.isPci = true) (k : Byte) (base : Word) :
    exec (.pciSetBar k base) s =
      if k = 0 then .next { s with linearBase := base } else if k = 1 then .next { s with mmioBase := base }
      else .next s := if_pos h

/-- Settles O26: each event sets its field, and with the enable clear the aperture set is empty (R173). -/
theorem pciEventsSetDecodeFields : Obligations.PciEventsSetDecodeFields := by
  unfold Obligations.PciEventsSetDecodeFields
  intro s hpci
  have hclosed : mapOf { s with pciMemEn := false } = [] := mapOf_of_disabled (by simp [memEnabled, hpci])
  refine ⟨exec_pciSetBar hpci 0, exec_pciSetBar hpci 1, ?otherBar, exec_pciSetMemEnable hpci,
    ⟨_, _, exec_pciSetMemEnable hpci false, rfl, hclosed, ?unrouted,
      exec_pciSetMemEnable (s := { s with pciMemEn := false }) hpci true, rfl⟩⟩
  case otherBar =>
    intro k base h0 h1
    rw [exec_pciSetBar hpci, if_neg h0, if_neg h1]
  case unrouted => exact fun a => route_of_no_aperture (by simp [hclosed])

/-! ## What the aperture set depends on -/

/-- The aperture set reads the mapping-control fields, the bus fields and the configuration (R170). -/
theorem mapOf_congr {s t : State} (hcfg : s.cfg = t.cfg) (hlin : linEn s = linEn t) (hmap : mapSel s = mapSel t)
    (haccel : accelSel s = accelSel t) (hmmio : mmioEn s = mmioEn t) (hen : s.pciMemEn = t.pciMemEn)
    (hlbase : s.linearBase = t.linearBase) (hmbase : s.mmioBase = t.mmioBase) : mapOf s = mapOf t := by
  unfold mapOf memEnabled linearBaseOf
  rw [hcfg, hlin, hmap, haccel, hmmio, hen, hlbase, hmbase]

/-- A port byte written twice leaves what one write leaves, but for the count of timing calls (R155, R157, R190). -/
theorem vgaWriteByte_twice (p : VgaPort) (b : Byte) (s : State) :
    vgaWriteByte p b (vgaWriteByte p b s) =
      { vgaWriteByte p b s with recalcs := (vgaWriteByte p b (vgaWriteByte p b s)).recalcs } := by
  cases p with
  | seqData | gdcData | crtcData => simp [vgaWriteByte, seqStore, gdcStore, crtcStore]
  | seqIdx | gdcIdx | crtcIdx | wbank | rbank => rfl

/-- Settles O29: the set reads the decode fields only, and a repeated port write or a toggled enable leaves those as
they were. -/
theorem decodeIsIdempotent : Obligations.DecodeIsIdempotent := by
  unfold Obligations.DecodeIsIdempotent
  refine ⟨?fields, ?ports, ?toggle⟩
  case fields =>
    intro s t hcfg hlin hmap haccel hmmio hen hlbase hmbase
    have hset := mapOf_congr hcfg hlin hmap haccel hmmio hen hlbase hmbase
    exact ⟨hset, route_congr hset⟩
  case ports =>
    intro s v i hi
    have hport : ∃ p, ∀ t, exec i t = .next (vgaWriteByte p v t) := by
      simp only [List.mem_cons, List.not_mem_nil, or_false] at hi
      rcases hi with rfl | rfl | rfl | rfl | rfl
      exacts [⟨.crtcData, fun _ => rfl⟩, ⟨.seqData, fun _ => rfl⟩, ⟨.gdcData, fun _ => rfl⟩, ⟨.wbank, fun _ => rfl⟩,
        ⟨.rbank, fun _ => rfl⟩]
    obtain ⟨p, hexec⟩ := hport
    refine ⟨_, _, hexec s, hexec _, ?_⟩
    rw [vgaWriteByte_twice]
    exact ⟨rfl, rfl, rfl⟩
  case toggle =>
    intro s hpci hen
    exact ⟨_, _, exec_pciSetMemEnable hpci false, exec_pciSetMemEnable (s := { s with pciMemEn := false }) hpci true,
      mapOf_congr rfl rfl rfl rfl rfl hen.symm rfl rfl⟩

end Sys2Proof.Machine
end

section
/-!
PROOFS. Host memory transactions: first what a byte does along each route, written (R183 to R186, R188, R189) and read
(R187), then the transactions, a byte at a time for writes and assembled for reads.
-/

namespace Sys2Proof.Machine

/-! ## Framebuffer bytes -/

/-- A host write at `a` reaches VRAM byte `i`: through the write bank in the banked window, else by the linear offset
(R184, R185). -/
def WriteReaches (s : State) (a : Word) (i : Nat) : Prop :=
  (∃ w, route s a = .banked w ∧ i = ((writeBank s + w) &&& vramMask s.cfg).toNat) ∨
    (∃ l, route s a = .linear l ∧ i = (l &&& vramMask s.cfg).toNat)

/-- A host read at `a` reaches VRAM byte `j`: through the read bank in the banked window, else by the linear offset
(R187). -/
def ReadReaches (s : State) (a : Word) (j : Nat) : Prop :=
  (∃ w, route s a = .banked w ∧ j = ((readBank s + w) &&& vramMask s.cfg).toNat) ∨
    (∃ l, route s a = .linear l ∧ j = (l &&& vramMask s.cfg).toNat)

theorem memWriteByte_of_writeReaches {s : State} {a : Word} {i : Nat} (h : WriteReaches s a i) (b : Byte) :
    memWriteByte a b s = fbWrite i b s := by
  rcases h with ⟨w, hroute, rfl⟩ | ⟨l, hroute, rfl⟩ <;> simp only [memWriteByte, hroute, bankedIndex, linearIndex]

theorem memReadByte_of_readReaches {s : State} {a : Word} {j : Nat} (h : ReadReaches s a j) (k : Nat) :
    memReadByte a k s = fbRead j s := by
  rcases h with ⟨w, hroute, rfl⟩ | ⟨l, hroute, rfl⟩ <;> simp only [memReadByte, hroute, bankedIndex, linearIndex]

/-- Every address of a framebuffer aperture reaches a VRAM byte, written or read. -/
theorem exists_reaches {s : State} {a : Word} (h : (∃ w, route s a = .banked w) ∨ ∃ l, route s a = .linear l) :
    (∃ i, WriteReaches s a i) ∧ ∃ j, ReadReaches s a j := by
  rcases h with ⟨w, hroute⟩ | ⟨l, hroute⟩
  · exact ⟨⟨_, .inl ⟨w, hroute, rfl⟩⟩, _, .inl ⟨w, hroute, rfl⟩⟩
  · exact ⟨⟨_, .inr ⟨l, hroute, rfl⟩⟩, _, .inr ⟨l, hroute, rfl⟩⟩

theorem fbWrite_of_normal {s : State} (h : subMode s = .normal) (i : Nat) (b : Byte) :
    fbWrite i b s = .ok (vramWrite s i b) := by
  rw [fbWrite, h]

theorem fbWrite_of_mono {s : State} (h : subMode s = .mono) (i : Nat) (b : Byte) :
    fbWrite i b s =
      if s.cfg.gen0MonoWriteGiven then .ok (vramWriteCells s (Config.gen0MonoWrite s i b))
      else .error .gen0SubMode := by
  rw [fbWrite, h]

theorem fbWrite_of_latch {s : State} (h : subMode s = .latch) (i : Nat) (b : Byte) :
    fbWrite i b s =
      if s.cfg.gen0LatchWriteGiven then .ok (vramWriteCells s (Config.gen0LatchWrite s i b))
      else .error .gen0SubMode := by
  rw [fbWrite, h]

/-- Only the latch sub-mode swaps a read (R188). -/
theorem fbRead_of_ne_latch {s : State} (h : subMode s ≠ .latch) (j : Nat) : fbRead j s = .ok (s.vram.read j, s) := by
  unfold fbRead
  cases hmode : subMode s with
  | normal | mono => rfl
  | latch => exact absurd hmode h

theorem fbRead_of_latch {s : State} (h : subMode s = .latch) (j : Nat) :
    fbRead j s =
      if s.cfg.gen0LatchReadGiven then
        .ok ((Config.gen0LatchRead s j).1, { s with latch := (Config.gen0LatchRead s j).2 })
      else .error .gen0SubMode := by
  rw [fbRead, h]

/-- A stored byte reads back, marks its page and leaves all else (R66). -/
theorem vramWrite_spec {s : State} (h : Memory.wf s.vram) (i : Nat) (b : Byte) :
    vramWrite s i b = { s with vram := (vramWrite s i b).vram, dirty := (vramWrite s i b).dirty } ∧
      (∀ x, (vramWrite s i b).vram.read x = if x = i then b else s.vram.read x) ∧
      ∀ p, p ∈ (vramWrite s i b).dirty ↔ p = i / 4096 ∨ p ∈ s.dirty :=
  ⟨rfl, Memory.read_write h i b, fun _ => mem_markPage⟩

/-! ## Register-aperture and unclaimed bytes -/

theorem memWriteByte_of_accel {s : State} {a : Word} {o : Byte} (h : route s a = .accel o) (b : Byte) :
    memWriteByte a b s = .ok (regWriteByte o b s) := by
  rw [memWriteByte, h]

theorem memWriteByte_of_mmio {s : State} {a : Word} {m : Half} (h : route s a = .mmio m) (b : Byte) :
    memWriteByte a b s = .ok (mmioWriteByte m b s) := by
  rw [memWriteByte, h]

theorem memWriteByte_of_unclaimed {s : State} {a : Word} (h : route s a = .unclaimed) (b : Byte) :
    memWriteByte a b s = .ok s := by
  rw [memWriteByte, h]

theorem mmioWindow_iff {m : Half} : mmioWindow m = true ↔ 0x2100 ≤ m.toNat ∧ m.toNat ≤ 0x21FF := decide_eq_true_iff

theorem mmioWriteByte_of_window {m : Half} (h : mmioWindow m = true) (b : Byte) (s : State) :
    mmioWriteByte m b s = regWriteByte ((m - 0x2100).setWidth 8) b s := if_pos h

/-- Off the window a byte has the effect of the port of the same number (R177, R186). -/
theorem mmioWriteByte_eq_ioWriteByte {m : Half} (h : m.toNat < 0x2100 ∨ 0x21FF < m.toNat) (b : Byte) (s : State) :
    mmioWriteByte m b s = ioWriteByte m b s := by
  have hwindow : mmioWindow m = false := decide_eq_false (by omega)
  have haccel : isAccelPort m = false := isAccelPort_eq_false (by omega)
  cases hport : vgaPort s.cfg m with
  | none =>
    rw [ioWriteByte_of_unclaimed haccel hport]
    simp only [mmioWriteByte, hwindow, hport, Bool.false_eq_true, if_false]
  | some p =>
    rw [ioWriteByte_of_vga haccel hport]
    simp only [mmioWriteByte, hwindow, hport, Bool.false_eq_true, if_false]

/-! ## Byte writes -/

theorem exec_memWrite (a : Word) (n : Width) (v : Word) (s : State) :
    exec (.memWrite a n v) s = outcomeOf (memWrite a n v s) := rfl

/-- A route other than a framebuffer aperture carries no CPU data (R180). -/
theorem notFed_of_route {s : State} {a : Word} {r : Route} (h : route s a = r) (hr : isFeedRoute s.cfg r = false) :
    NotFed s a := .inr (h ▸ hr)

/-- A byte write that is no CPU data is the low byte of its datum, routed on its own (R180, R183). -/
theorem exec_memWrite_byte {s : State} {a : Word} (h : NotFed s a) (v : Word) :
    exec (.memWrite a .b1 v) s = outcomeOf (memWriteByte a (v.setWidth 8) s) := by
  have hbyte : byteAt v 0 = v.setWidth 8 := by simp [byteAt]
  rw [exec_memWrite, memWrite_byte_of_notFed h, hbyte]

theorem exec_memWrite_ofByte {s : State} {a : Word} (h : NotFed s a) (b : Byte) :
    exec (.memWrite a .b1 (b.setWidth 32)) s = outcomeOf (memWriteByte a b s) := by
  rw [exec_memWrite_byte h, setWidth_setWidth_byte b (by decide)]

/-- A byte that reaches a framebuffer aperture is written there as the sub-mode says (R184, R185, R188). -/
theorem exec_memWrite_of_writeReaches {s : State} {a : Word} {i : Nat} (hfed : NotFed s a) (h : WriteReaches s a i)
    (v : Word) : exec (.memWrite a .b1 v) s = outcomeOf (fbWrite i (v.setWidth 8) s) := by
  rw [exec_memWrite_byte hfed, memWriteByte_of_writeReaches h]

/-- Settles O30: the byte is stored at the VRAM byte it reaches. -/
theorem framebufferByteWrites : Obligations.FramebufferByteWrites := by
  unfold Obligations.FramebufferByteWrites
  intro s a b i hwf hmode hfed hreach
  refine ⟨vramWrite s i b, ?_, vramWrite_spec hwf i b⟩
  rw [exec_memWrite_of_writeReaches hfed hreach, setWidth_setWidth_byte b (by decide), fbWrite_of_normal hmode]
  rfl

/-- Settles O31: through a register aperture the byte is the window row of its offset, or the port's byte. -/
theorem registerApertureWrites : Obligations.RegisterApertureWrites := by
  unfold Obligations.RegisterApertureWrites
  intro s a b
  refine ⟨fun o hroute => ?accel, fun m hroute hm => ?window, fun m hroute hm => ?port⟩
  case accel =>
    obtain ⟨i, hi, heff⟩ := windowRowsAreRegisterByteWrites s o b
    refine ⟨i, _, hi, heff, ?_⟩
    rw [exec_memWrite_ofByte (notFed_of_route hroute rfl), memWriteByte_of_accel hroute]
    rfl
  case window =>
    obtain ⟨i, hi, heff⟩ := windowRowsAreRegisterByteWrites s ((m - 0x2100).setWidth 8) b
    refine ⟨i, _, hi, heff, ?_⟩
    rw [exec_memWrite_ofByte (notFed_of_route hroute rfl), memWriteByte_of_mmio hroute,
      mmioWriteByte_of_window (mmioWindow_iff.mpr hm)]
    rfl
  case port =>
    refine ⟨_, exec_ioWrite_byte m _ s, ?_⟩
    rw [exec_memWrite_ofByte (notFed_of_route hroute rfl), memWriteByte_of_mmio hroute,
      mmioWriteByte_eq_ioWriteByte hm, setWidth_setWidth_byte b (by decide)]
    rfl

/-! ## Wide writes -/

theorem isCommandWord_iff {r : Route} : isCommandWord r = true ↔ r = .accel 0x24 ∨ r = .mmio 0x2124 :=
  decide_eq_true_iff

/-- A long write at the command word is the atomic write, whatever the engine awaits (R181). -/
theorem exec_memWrite_of_commandWord {s : State} {a : Word} (h : route s a = .accel 0x24 ∨ route s a = .mmio 0x2124)
    (v : Word) : exec (.memWrite a .b4 v) s = .next (commandRopWrite v s) := by
  have hfed : NotFed s a := h.elim (notFed_of_route · rfl) (notFed_of_route · rfl)
  rw [exec_memWrite, memWrite_of_notFed hfed, isCommandWord_iff.mpr h]
  rfl

/-- Any other write that is no CPU data is its bytes (R180). -/
theorem exec_memWrite_of_bytes {s : State} {a : Word} {n : Width} (hfed : NotFed s a)
    (h : ¬ (isCommandWord (route s a) = true ∧ n = .b4)) (v : Word) :
    exec (.memWrite a n v) s = outcomeOf (memWriteBytes a (bytesOf n.bytes v) s) := by
  have hplain : (isCommandWord (route s a) && decide (n = .b4)) = false := by simpa using h
  rw [exec_memWrite, memWrite_of_notFed hfed, hplain]
  rfl

/-- The rest of a write starts at the next address, in the state its first byte leaves (R183). -/
theorem memWriteBytes_cons_of_ok {a : Word} {b : Byte} {s t : State} (h : memWriteByte a b s = .ok t)
    (bs : List Byte) : memWriteBytes a (b :: bs) s = memWriteBytes (a + 1) bs t := by
  rw [memWriteBytes, h]

/-- What a byte write that goes on has written, its datum cut to the low byte. -/
theorem memWriteByte_of_exec {s t : State} {a v : Word} (hfed : NotFed s a)
    (h : exec (.memWrite a .b1 (v &&& 0xFF)) s = .next t) : memWriteByte a (v.setWidth 8) s = .ok t := by
  rw [exec_memWrite_byte hfed, setWidth_and_ones] at h
  exact outcomeOf_next h

/-- A word write is its second byte, in the state its first byte leaves. -/
theorem exec_memWrite_word {s t : State} {a v : Word} (hfed : NotFed s a)
    (h : exec (.memWrite a .b1 (v &&& 0xFF)) s = .next t) :
    exec (.memWrite a .b2 v) s = outcomeOf (memWriteBytes (a + 1) [(v >>> 8).setWidth 8] t) := by
  rw [exec_memWrite_of_bytes hfed (by simp), bytesOf_width_two,
    memWriteBytes_cons_of_ok (memWriteByte_of_exec hfed h)]

/-- Settles O33: the branches of a memory write, and its bytes one after the other. -/
theorem wideMemoryWrites : Obligations.WideMemoryWrites := by
  unfold Obligations.WideMemoryWrites
  intro s a v
  refine ⟨fun hroute => ⟨_, exec_wrCommandRop v s, exec_memWrite_of_commandWord hroute v⟩, ?word, ?stored, ?long⟩
  case word =>
    intro t u hs ht hb0 hb1
    rw [exec_memWrite_word hs hb0, memWriteBytes_cons_of_ok (memWriteByte_of_exec ht hb1)]
    rfl
  case stored =>
    intro t i hs hwf hmode hb0 hreach
    refine ⟨vramWrite t i (byteAt v 1), ?_, vramWrite_spec hwf i _⟩
    have hb1 : memWriteByte (a + 1) ((v >>> 8).setWidth 8) t = .ok (vramWrite t i (byteAt v 1)) := by
      rw [memWriteByte_of_writeReaches hreach, fbWrite_of_normal hmode]
      rfl
    rw [exec_memWrite_word hs hb0, memWriteBytes_cons_of_ok hb1]
    rfl
  case long =>
    intro t u w x haccel hmmio hs ht hu hw hb0 hb1 hb2 hb3
    have hplain : ¬ (isCommandWord (route s a) = true ∧ Width.b4 = .b4) := fun h =>
      (isCommandWord_iff.mp h.1).elim haccel hmmio
    have haddr2 : a + 1 + 1 = a + 2 := BitVec.add_assoc a 1 1
    have haddr3 : a + 2 + 1 = a + 3 := BitVec.add_assoc a 2 1
    rw [exec_memWrite_of_bytes hs hplain, bytesOf_width_four, memWriteBytes_cons_of_ok (memWriteByte_of_exec hs hb0),
      memWriteBytes_cons_of_ok (memWriteByte_of_exec ht hb1), haddr2,
      memWriteBytes_cons_of_ok (memWriteByte_of_exec hu hb2), haddr3,
      memWriteBytes_cons_of_ok (memWriteByte_of_exec hw hb3)]
    rfl

/-! ## Reads -/

theorem exec_memRead (a : Word) (n : Width) (s : State) : exec (.memRead a n) s = outcomeOf (memRead a n s) := rfl

/-- A byte read hands over its one byte. -/
theorem exec_memRead_byte {s t : State} {a : Word} {b : Byte} (h : memReadByte a 0 s = .ok (b, t)) :
    exec (.memRead a .b1) s = .next (finishRead t (b.setWidth 32)) := by
  have hbytes : memReadBytes 0 a Width.b1.bytes s = .ok ([b], t) := by
    simp only [Width.bytes, memReadBytes, h]
  have hvalue : wordOfBytes [b] = b.setWidth 32 := by simp [wordOfBytes]
  rw [exec_memRead, memRead, hbytes, ← hvalue]
  rfl

theorem exec_memRead_byte_refused {s : State} {a : Word} {r : Refusal} (h : memReadByte a 0 s = .error r) :
    exec (.memRead a .b1) s = .refused r := by
  have hbytes : memReadBytes 0 a Width.b1.bytes s = .error r := by
    simp only [Width.bytes, memReadBytes, h]
  rw [exec_memRead, memRead, hbytes]
  rfl

/-- Byte `k` of a read as the aperture of its address supplies it where no read is swapped (R187). -/
def suppliedByte (s : State) (k : Nat) : Route → Byte
  | .banked w => s.vram.read (bankedIndex s (readBank s) w)
  | .linear l => s.vram.read (linearIndex s l)
  | .accel o => regReadByte o k s
  | .mmio m => mmioReadByte m k s
  | .unclaimed => Config.freeByte s.draws k

/-- Outside the latch sub-mode a byte read goes on and changes nothing (R72, R187). -/
theorem memReadByte_of_ne_latch {s : State} (h : subMode s ≠ .latch) (a : Word) (k : Nat) :
    memReadByte a k s = .ok (suppliedByte s k (route s a), s) := by
  unfold memReadByte
  cases route s a with
  | banked w | linear l => exact fbRead_of_ne_latch h _
  | accel o | mmio m | unclaimed => rfl

theorem memReadBytes_of_ne_latch {s : State} (h : subMode s ≠ .latch) (k : Nat) (a : Word) (n : Nat) :
    memReadBytes k a n s =
      .ok ((List.range n).map (fun j => suppliedByte s (k + j) (route s (a + BitVec.ofNat 32 j))), s) := by
  induction n generalizing k a with
  | zero => rfl
  | succ n ih =>
    have hnext (j : Nat) : a + 1 + BitVec.ofNat 32 j = a + BitVec.ofNat 32 (j + 1) := by bv_omega
    have hplace (j : Nat) : k + 1 + j = k + (j + 1) := by omega
    simp only [memReadBytes, memReadByte_of_ne_latch h, ih, hnext, hplace, List.range_succ_eq_map, List.map_cons,
      List.map_map, Function.comp_def, Nat.add_zero, add_ofNat_zero, Nat.succ_eq_add_one]

/-- The value of a read of `n` bytes from `a` on, where no read is swapped. -/
def suppliedWord (s : State) (a : Word) (n : Width) : Word :=
  wordOfBytes ((List.range n.bytes).map (fun j => suppliedByte s j (route s (a + BitVec.ofNat 32 j))))

/-- Outside the latch sub-mode a read of any width hands over what the apertures supply (R72, R187). -/
theorem reads_memRead {s : State} (h : subMode s ≠ .latch) (a : Word) (n : Width) :
    Reads (.memRead a n) s (suppliedWord s a n) := by
  unfold Reads
  rw [exec_memRead, memRead, memReadBytes_of_ne_latch h]
  simp only [Nat.zero_add]
  rfl

theorem suppliedWord_lt (s : State) (a : Word) (n : Width) : (suppliedWord s a n).toNat < 2 ^ (8 * n.bytes) := by
  have hlt := wordOfBytes_lt ((List.range n.bytes).map fun j => suppliedByte s j (route s (a + BitVec.ofNat 32 j)))
  rwa [List.length_map, List.length_range] at hlt

theorem byteAt_suppliedWord (s : State) (a : Word) {n : Width} {k : Nat} (hk : k < n.bytes) :
    byteAt (suppliedWord s a n) k = suppliedByte s k (route s (a + BitVec.ofNat 32 k)) := by
  rw [suppliedWord, byteAt_wordOfBytes _ (Nat.lt_of_lt_of_le hk (width_bytes_le n))]
  simp [hk]

/-- Settles O34: the read hands over the assembled word, and its byte `k` is what the route of `a + k` supplies. -/
theorem memoryReadsAssembleBytes : Obligations.MemoryReadsAssembleBytes := by
  unfold Obligations.MemoryReadsAssembleBytes
  intro s a n hmode
  refine ⟨suppliedWord s a n, reads_memRead hmode a n, suppliedWord_lt s a n, fun k hk => ?_⟩
  rw [byteAt_suppliedWord s a hk]
  cases route s (a + BitVec.ofNat 32 k) with
  | banked w | linear l | accel o | unclaimed => rfl
  | mmio m =>
    show mmioReadByte m k s = _
    exact if_congr mmioWindow_iff rfl rfl

/-- Settles O32: nothing is routed, so nothing is written, and the byte read is the free one (R187, R189). -/
theorem unclaimedAddresses : Obligations.UnclaimedAddresses := by
  unfold Obligations.UnclaimedAddresses
  intro s a v hroute
  have hread : memReadByte a 0 s = .ok (Config.freeByte s.draws 0, s) := by rw [memReadByte, hroute]
  refine ⟨?write, exec_memRead_byte hread⟩
  rw [exec_memWrite_byte (notFed_of_route hroute rfl), memWriteByte_of_unclaimed hroute]
  rfl

/-! ## Gen0 sub-modes -/

/-- Settles O35: the sub-mode decides what a framebuffer byte does at the VRAM byte it reaches. -/
theorem gen0SubModesUseTheirFunctions : Obligations.Gen0SubModesUseTheirFunctions := by
  unfold Obligations.Gen0SubModesUseTheirFunctions
  refine ⟨fun s a v hroute => ?notSupplied, fun s a b i j hij => ?supplied⟩
  case notSupplied =>
    obtain ⟨⟨i, hwrite⟩, j, hread⟩ := exists_reaches hroute
    refine ⟨fun hfed => ⟨fun hmode hno => ?mono, fun hmode hno => ?latch⟩, fun hmode hno => ?latchRead,
      fun hmode => ⟨_, reads_memRead (by simp [hmode]) a .b1⟩⟩
    case mono =>
      rw [exec_memWrite_of_writeReaches hfed hwrite, fbWrite_of_mono hmode, hno]
      rfl
    case latch =>
      rw [exec_memWrite_of_writeReaches hfed hwrite, fbWrite_of_latch hmode, hno]
      rfl
    case latchRead =>
      refine exec_memRead_byte_refused ?_
      rw [memReadByte_of_readReaches hread, fbRead_of_latch hmode, hno]
      rfl
  case supplied =>
    have hreach : WriteReaches s a i ∧ ReadReaches s a j := by
      rcases hij with ⟨w, hroute, hi, hj⟩ | ⟨l, hroute, hi, rfl⟩
      · exact ⟨.inl ⟨w, hroute, hi⟩, .inl ⟨w, hroute, hj⟩⟩
      · exact ⟨.inr ⟨l, hroute, hi⟩, .inr ⟨l, hroute, hi⟩⟩
    obtain ⟨hwrite, hread⟩ := hreach
    refine ⟨fun hfed hmode hgiven => ?mono, fun hfed hmode hgiven => ?latch, fun hmode hgiven => ?latchRead⟩
    case mono =>
      rw [exec_memWrite_of_writeReaches hfed hwrite, setWidth_setWidth_byte b (by decide),
        fbWrite_of_mono hmode, if_pos hgiven]
      rfl
    case latch =>
      rw [exec_memWrite_of_writeReaches hfed hwrite, setWidth_setWidth_byte b (by decide),
        fbWrite_of_latch hmode, if_pos hgiven]
      rfl
    case latchRead =>
      refine exec_memRead_byte (t := { s with latch := (Config.gen0LatchRead s j).2 }) ?_
      rw [memReadByte_of_readReaches hread, fbRead_of_latch hmode, if_pos hgiven]

end Sys2Proof.Machine
end

section
/-!
PROOFS. The tests and the operands of one pixel: the clip test (R213), transparency (R214, R215) and the cell of the
decoded pattern (R204 to R209, R212).
-/

namespace Sys2Proof.Machine

/-! ## The clip test -/

theorem hasClip_eq (cfg : Config) : hasClip cfg = decide (cfg.gen = .gen2 ∨ cfg.gen = .gen3) := by
  rw [hasClip]
  cases cfg.gen <;> rfl

theorem clipOk_of_not_hasClip {cfg : Config} (h : hasClip cfg = false) (k : Clip) (px py : Word) :
    clipOk cfg k px py = true := by
  rw [clipOk, h]
  rfl

theorem clipOk_iff {cfg : Config} (h : hasClip cfg = true) {k : Clip} {px py : Word} :
    clipOk cfg k px py = true ↔
      k.l.toInt ≤ px.toInt ∧ px.toInt ≤ k.r.toInt ∧ k.t.toInt ≤ py.toInt ∧ py.toInt ≤ k.b.toInt := by
  simp only [clipOk, h, Bool.not_true, Bool.false_or, Bool.and_eq_true, BitVec.sle_iff_toInt_le, sint16_toInt,
    and_assoc]

theorem drawPixel_of_clipped {c : Cont} {s : State} (h : clipOk s.cfg c.clip c.dx c.dy = false) (src : Word) :
    drawPixel src c s = s := by
  simp [drawPixel, h]

theorem scanlinePixel_of_clipped {c : Cont} {s : State} (h : clipOk s.cfg c.clip c.dx c.dy = false) :
    scanlinePixel c s = s := by
  simp [scanlinePixel, h]

theorem plot_of_clipped {c : Cont} {px py : Word} {s : State} (h : clipOk s.cfg c.clip px py = false) :
    plot c px py s = s := by
  simp [plot, h]

theorem scanlineSource_eq (c : Cont) (s : State) :
    scanlineSource c s =
      if c.flags.getLsbD 2 = false ∧ c.flags.getLsbD 1 = true then patAt c c.dx c.dy else readPixel s c.srcOff := by
  simp only [scanlineSource, srcDisp, srcPat, Bool.and_eq_true, Bool.not_eq_true']

/-- Settles O51: the bounds as signed numbers, then the clip branch of each of the three pixel steps. -/
theorem clipTestIsInclusive : Obligations.ClipTestIsInclusive := by
  unfold Obligations.ClipTestIsInclusive
  refine ⟨fun cfg k px py => ⟨fun hold => ?passes, fun hnew => ?bounds⟩,
    fun s c src px py => ⟨fun hout => ?notDrawn, fun hin => ?composed, fun hout => ?notPlotted, fun hin => ?plotted⟩⟩
  case passes =>
    refine clipOk_of_not_hasClip ?_ k px py
    rw [hasClip_eq]
    rcases hold with hgen | hgen <;> simp [hgen]
  case bounds => exact clipOk_iff (by rw [hasClip_eq]; exact decide_eq_true hnew)
  case notDrawn => exact ⟨drawPixel_of_clipped hout src, scanlinePixel_of_clipped hout⟩
  case composed => rw [scanlinePixel, if_pos hin, compose, scanlineSource_eq]
  case notPlotted => exact plot_of_clipped hout
  case plotted => rw [plot, if_pos hin, compose]

/-! ## Transparency -/

theorem transparent_iff {d : AccelBpp} {c : Cont} {src : Word} :
    transparent d c src = true ↔
      c.flags.getLsbD 12 = true ∧ d.trunc src = d.trunc (if c.flags.getLsbD 13 then c.fg else c.bg) := by
  rw [transparent, Bool.and_eq_true, beq_iff_eq]
  rfl

theorem drawPixel_of_transparent {src : Word} {c : Cont} {s : State} (h : transparent s.accelBpp c src = true) :
    drawPixel src c s = s := by
  simp [drawPixel, h]

theorem drawPixel_of_opaque {src : Word} {c : Cont} {s : State} (hclip : clipOk s.cfg c.clip c.dx c.dy = true)
    (h : transparent s.accelBpp c src = false) :
    drawPixel src c s = writePixel s c.dstOff (mix c.rop (readPixel s c.dstOff) (patAt c c.dx c.dy) src) := by
  simp [drawPixel, hclip, h, compose]

/-- Settles O52: the transparency test skips the pixel; any other is one element write, which reads back truncated. -/
theorem transparentPixelsAreSkipped : Obligations.TransparentPixelsAreSkipped := by
  unfold Obligations.TransparentPixelsAreSkipped
  intro s c src hwf
  refine ⟨fun hena heq => drawPixel_of_transparent (transparent_iff.mpr ⟨hena, heq⟩), fun hclip hopaque => ?drawn⟩
  case drawn =>
    have hnot : transparent s.accelBpp c src = false := by
      rw [Bool.eq_false_iff, ne_eq, transparent_iff, not_and_or, Bool.not_eq_true]
      exact hopaque
    have hdraw := drawPixel_of_opaque hclip hnot
    refine ⟨hdraw, ?_⟩
    rw [hdraw]
    exact readPixel_writePixel hwf _ _

/-! ## Pattern cells -/

/-- The low bits of two coordinates side by side count the cells row by row (R205, R212). -/
theorem cellIndex_toNat (dx dy : Word) :
    (dy.setWidth 3 ++ dx.setWidth 3 : BitVec 6).toNat = dy.toNat % 8 * 8 + dx.toNat % 8 := by
  rw [BitVec.toNat_append, BitVec.toNat_setWidth, BitVec.toNat_setWidth,
    ← Nat.shiftLeft_add_eq_or_of_lt (Nat.mod_lt _ (by decide)), Nat.shiftLeft_eq]

theorem decodePattern_getElem (s : State) {i : Nat} (h : i < 64) : (decodePattern s)[i] = patCell s i := by
  simp [decodePattern]

/-- The pattern operand of a fresh command is the cell at the coordinates modulo 8 (R204, R212). -/
theorem patAt_snapshot (s : State) (dx dy : Word) :
    patAt (snapshot s) dx dy = patCell s (dy.toNat % 8 * 8 + dx.toNat % 8) := by
  rw [← cellIndex_toNat]
  exact decodePattern_getElem s _

theorem patForm_of_solidFill {s : State} (h : s.flags.getLsbD 14 = true) : patForm s = .solid := if_pos h

theorem patForm_of_patMono {s : State} (hs : s.flags.getLsbD 14 = false) (h : s.flags.getLsbD 5 = true) :
    patForm s = .mono := by
  simp only [patForm, solidFill, patMono, hs, h]
  rfl

theorem patForm_of_native {s : State} (hs : s.flags.getLsbD 14 = false) (hm : s.flags.getLsbD 5 = false) :
    patForm s = match s.accelBpp with | .bpp8 => .native8 | .bpp16 => .native16 | .bpp32 => .native32 := by
  simp only [patForm, solidFill, patMono, hs, hm]
  rfl

/-- The bytes of a native cell are the pattern bytes from the cell's place on, zero past the element (R207 to R209). -/
theorem byteAt_patCell_native {s : State} (hs : s.flags.getLsbD 14 = false) (hm : s.flags.getLsbD 5 = false) (i : Nat)
    {k : Nat} (hk : k < 4) :
    byteAt (patCell s i) k =
      match s.accelBpp with
      | .bpp8 => if k < 1 then patByte s (BitVec.ofNat 7 i) else 0
      | .bpp16 => if k < 2 then patByte s (BitVec.ofNat 7 (2 * i + k)) else 0
      | .bpp32 => pat32Byte s (BitVec.ofNat 8 (4 * i + k)) := by
  have hform := patForm_of_native hs hm
  cases hd : s.accelBpp with
  | bpp8 | bpp16 | bpp32 =>
    rw [hd] at hform
    simp only [patCell, hform, byteAt_wordOfBytes _ hk]
    interval_cases k <;> rfl

/-- Settles O42: the cell's index, then the form the flags and the depth select. -/
theorem patternCells : Obligations.PatternCells := by
  unfold Obligations.PatternCells
  intro s dx dy
  rw [patAt_snapshot]
  refine ⟨fun hsolid => ?solid, fun hsolid hmono => ?mono, fun hsolid hmono k hk => ?native⟩
  case solid => rw [patCell, patForm_of_solidFill hsolid]
  case mono =>
    have hcol : dx.toNat % 8 < 8 := Nat.mod_lt _ (by decide)
    rw [patCell, patForm_of_patMono hsolid hmono]
    simp only [show (dy.toNat % 8 * 8 + dx.toNat % 8) / 8 = dy.toNat % 8 by omega,
      show (dy.toNat % 8 * 8 + dx.toNat % 8) % 8 = dx.toNat % 8 by omega]
  case native => exact byteAt_patCell_native hsolid hmono _ hk

end Sys2Proof.Machine
end

section
/-!
PROOFS. The raster walk of a BitBLT: its pixels in x-major, then y-major order (R216), what a command changes at most
(D43, R44), and the bytes of video memory the walk leaves alone (R64).
-/

namespace Sys2Proof.Machine

/-! ## Pixels of a rectangle -/

theorem extent_eq_max (v : Half) : (extent v : Int) = max v.toInt 0 := Int.ofNat_toNat _

theorem pixelCount_pos (c : Cont) : 0 < pixelCount c := Nat.mul_pos (Nat.succ_pos _) (Nat.succ_pos _)

/-- Column `i` of row `j` is pixel number `i` plus `j` rows (R216). -/
theorem pixelAt_rowCol {c : Cont} {i : Nat} (hi : i ≤ extent c.sizeX) (j : Nat) :
    pixelAt c ((extent c.sizeX + 1) * j + i) = contAt c i j := by
  have hlt : i < extent c.sizeX + 1 := Nat.lt_succ_of_le hi
  rw [pixelAt, Nat.mul_add_mod, Nat.mod_eq_of_lt hlt, Nat.mul_add_div (Nat.succ_pos _), Nat.div_eq_of_lt hlt,
    Nat.add_zero]

theorem pixelAt_zero (c : Cont) : pixelAt c 0 = contAt c 0 0 := by rw [pixelAt, Nat.zero_mod, Nat.zero_div]

/-- Every pixel number of a rectangle is a column of a row. -/
theorem exists_rowCol {c : Cont} {k : Nat} (hk : k < pixelCount c) :
    ∃ i j, i ≤ extent c.sizeX ∧ j ≤ extent c.sizeY ∧ k = (extent c.sizeX + 1) * j + i :=
  ⟨k % (extent c.sizeX + 1), k / (extent c.sizeX + 1), Nat.le_of_lt_succ (Nat.mod_lt _ (Nat.succ_pos _)),
    Nat.le_of_lt_succ (Nat.div_lt_of_lt_mul hk), (Nat.div_add_mod _ _).symm⟩

/-- `advance` goes from each pixel of a fresh rectangle to the next one, and from the last one nowhere (R216). -/
theorem advance_pixelAt {c : Cont} {k : Nat} (hk : k < pixelCount c) :
    advance (pixelAt c k) = if k + 1 < pixelCount c then some (pixelAt c (k + 1)) else none := by
  obtain ⟨i, j, hi, hj, rfl⟩ := exists_rowCol hk
  rw [pixelAt_rowCol hi, advance_contAt c hi hj]
  by_cases hrow : i < extent c.sizeX
  · have hin : (extent c.sizeX + 1) * j + i + 1 < pixelCount c := by
      calc (extent c.sizeX + 1) * j + i + 1 < (extent c.sizeX + 1) * (j + 1) := by rw [Nat.mul_succ]; omega
        _ ≤ pixelCount c := Nat.mul_le_mul_left _ (Nat.succ_le_succ hj)
    rw [if_pos hrow, if_pos hin, Nat.add_assoc, pixelAt_rowCol hrow]
  · have hnext : (extent c.sizeX + 1) * j + i + 1 = (extent c.sizeX + 1) * (j + 1) + 0 := by
      rw [Nat.mul_succ]
      omega
    have hin : (extent c.sizeX + 1) * (j + 1) + 0 < pixelCount c ↔ j < extent c.sizeY := by
      rw [pixelCount, Nat.add_zero, Nat.mul_lt_mul_left (Nat.succ_pos _), Nat.succ_lt_succ_iff]
    rw [if_neg hrow, hnext, pixelAt_rowCol (Nat.zero_le _)]
    simp only [hin]

/-- The loop of a BitBLT from pixel `k` on draws the pixels that are left, in order (R216). -/
theorem bltLoop_pixelAt (source : State → Cont → Word) {c : Cont} {k n : Nat} (hn : k + n = pixelCount c) (s : State) :
    bltLoop source n (pixelAt c k) s =
      (List.range' k n).foldl (fun t j => drawPixel (source t (pixelAt c j)) (pixelAt c j) t) s := by
  induction n generalizing k s with
  | zero => rfl
  | succ n ih =>
    rw [bltLoop, advance_pixelAt (by omega), List.range'_succ, List.foldl_cons]
    cases n with
    | zero => rw [if_neg (by omega)]; rfl
    | succ n => rw [if_pos (by omega)]; exact ih (by omega) _

/-- From its start the loop draws the rectangle (R216). -/
theorem bltLoop_eq_drawRectangle (source : State → Cont → Word) {c : Cont} (hc : contAt c 0 0 = c) (s : State) :
    bltLoop source (pixelCount c) c s = drawRectangle source c s := by
  have hloop := bltLoop_pixelAt source (Nat.zero_add (pixelCount c)) s
  rwa [pixelAt_zero, hc, ← List.range_eq_range'] at hloop

/-- Settles O43: each form is the loop with its own source, and the loop is the walk of the rectangle. -/
theorem bitbltIsRasterWalk : Obligations.BitbltIsRasterWalk := by
  unfold Obligations.BitbltIsRasterWalk
  refine ⟨extent_eq_max, fun s => ?_⟩
  have hwalk : ∀ source, bltLoop source (pixelCount (snapshot s)) (snapshot s) (acceptCommand 0x01 s) =
      drawRectangle source (snapshot s) (acceptCommand 0x01 s) :=
    fun source => bltLoop_eq_drawRectangle source (contAt_snapshot s) _
  have hexec : ∀ {i}, (encode i).kind = .commandFlags → (encode i).key.setWidth 8 = (0x01 : Byte) →
      exec i s = .next (bitbltStart (snapshot s) (acceptCommand 0x01 s)) := by
    intro i hk hkey
    rw [exec_of_command (.inr hk), hkey]
    rfl
  refine ⟨fun hdisp => ?display, fun hdisp hpat => ?pattern, fun hdisp hpat huse => ?zeroStream⟩
  case display =>
    rw [hexec rfl rfl, bitbltStart_of_srcDisp (c := snapshot s) hdisp]
    exact congrArg _ (hwalk _)
  case pattern =>
    rw [hexec rfl rfl, bitbltStart_of_srcPat (c := snapshot s) hdisp hpat]
    exact congrArg _ (hwalk _)
  case zeroStream =>
    rw [hexec rfl rfl, bitbltStart_of_cpu (c := snapshot s) hdisp hpat, acceptCommand_useSrc, if_pos huse]
    exact congrArg _ (hwalk _)

/-! ## The frame of a command -/

theorem SameButEngine.trans {s t u : State} (h : SameButEngine s t) (k : SameButEngine t u) : SameButEngine s u := by
  rw [SameButEngine] at *
  rw [k, h]

theorem sameButEngine_kept (s : State) : KeptByPixels (SameButEngine s) := fun _ _ _ h => h.trans rfl

/-- A command byte changes its own register, and at most video memory, the dirty bitmap and the engine (D43). -/
theorem commandWrite_frame (b : Byte) (s : State) : CommandFrame b s (commandWrite b s) := by
  have haccept : SameButEngine { s with command := b } (acceptCommand b s) := rfl
  exact startCommand_keeps (sameButEngine_kept _) haccept (haccept.trans rfl)

/-- Only BITBLT can leave the engine awaiting data (R41). -/
theorem commandWrite_idle {b : Byte} (hb : b ≠ 0x01) (s : State) : (commandWrite b s).eng = .idle := by
  have hkept : KeptByPixels (fun t => t.eng = .idle) := fun _ _ _ h => h
  rcases startCommand_cases hkept (acceptCommand_eng b s) with hidle | ⟨hbitblt, -⟩
  · exact hidle
  · exact absurd hbitblt hb

/-- Settles O48: every row is the write of its code to the command register. -/
theorem commandsWriteNoRegisterBack : Obligations.CommandsWriteNoRegisterBack := by
  unfold Obligations.CommandsWriteNoRegisterBack
  intro s
  have hdrawing : ∀ {i}, (encode i).kind = .command → (encode i).key.setWidth 8 ≠ (0x01 : Byte) →
      ∃ t, exec i s = .next t ∧ CommandFrame ((encode i).key.setWidth 8) s t ∧ t.eng = .idle := fun hk hcode =>
    ⟨_, exec_of_command (.inl hk) s, commandWrite_frame _ s, commandWrite_idle hcode s⟩
  refine ⟨⟨_, exec_of_command (.inl rfl) s, commandWrite_frame _ s⟩, hdrawing (i := .scanline) rfl (by decide),
    hdrawing (i := .bresenham) rfl (by decide), hdrawing (i := .shortvec) rfl (by decide),
    hdrawing (i := .fastline) rfl (by decide), fun b => ⟨_, rfl, commandWrite_frame b s⟩⟩

/-! ## The memory frame -/

/-- Pixels were drawn between two states, none of them on byte `a` of video memory. -/
structure Untouched (a : Nat) (s t : State) : Prop where
  pixelsOnly : PixelsOnly s t
  vramWf : Memory.wf t.vram
  sameByte : t.vram.read a = s.vram.read a

theorem Untouched.refl {s : State} (h : Memory.wf s.vram) (a : Nat) : Untouched a s s := ⟨.refl s, h, rfl⟩

/-- An element write leaves a byte outside its element (R64). -/
theorem Untouched.writePixel {s t : State} {a : Nat} {off : Word} (h : Untouched a s t) (ho : ¬ InElem s off a)
    (v : Word) : Untouched a s (writePixel t off v) where
  pixelsOnly := h.pixelsOnly.trans (writePixel_pixelsOnly t off v)
  vramWf := vramWf_kept t off v h.vramWf
  sameByte := by
    have ht : ¬ (elemAddr t off ≤ a ∧ a < elemAddr t off + t.accelBpp.bytes) := by
      rw [h.pixelsOnly]
      exact ho
    rw [writePixel_read h.vramWf, if_neg ht, h.sameByte]

theorem Untouched.drawPixel {s t : State} {a : Nat} {c : Cont} (h : Untouched a s t) (ho : ¬ InElem s c.dstOff a)
    (src : Word) : Untouched a s (drawPixel src c t) := by
  unfold Machine.drawPixel
  split
  · exact h.writePixel ho _
  · exact h

/-- Drawing pixels of a rectangle, whatever their sources, leaves a byte outside the elements drawn. -/
theorem untouched_foldl_drawPixel {s : State} {a : Nat} {c : Cont} (hwf : Memory.wf s.vram) (ks : List Nat)
    (source : State → Nat → Word) (ho : ∀ k ∈ ks, ¬ InElem s (pixelAt c k).dstOff a) :
    Untouched a s (ks.foldl (fun t k => drawPixel (source t k) (pixelAt c k) t) s) :=
  ks.foldlRecOn _ (.refl hwf a) fun _ ht k hk => ht.drawPixel (ho k hk) _

/-- Settles O49: the BitBLT walks its rectangle, or suspends without drawing. -/
theorem bitbltLeavesOtherBytes : Obligations.BitbltLeavesOtherBytes := by
  unfold Obligations.BitbltLeavesOtherBytes
  intro s a hwf ho
  refine ⟨_, exec_of_command (.inl rfl) s, ?_⟩
  have hwalk : ∀ source,
      (bltLoop source (pixelCount (snapshot s)) (snapshot s) (acceptCommand 0x01 s)).vram.read a = s.vram.read a := by
    intro source
    rw [bltLoop_eq_drawRectangle source (contAt_snapshot s)]
    exact (untouched_foldl_drawPixel (s := acceptCommand 0x01 s) hwf (List.range _) (fun t k => source t (pixelAt _ k))
      fun k hk => ho k (List.mem_range.mp hk)).sameByte
  show (bitbltStart (snapshot s) (acceptCommand 0x01 s)).vram.read a = s.vram.read a
  unfold bitbltStart
  split_ifs
  · exact hwalk _
  · exact hwalk _
  · exact hwalk _
  · rfl

end Sys2Proof.Machine
end

section
/-!
PROOFS. The data of a CPU-source BitBLT: a feed is a stream of source pixels and of bytes that do not yet form one
(R219, R220), the pixels are drawn along the raster walk (R221), and the command completes with the last of them (R222).
-/

namespace Sys2Proof.Machine

/-! ## The pixels of a byte stream -/

/-- The pixels of `e` bytes that a native byte stream holds, little-endian (R220). -/
def nativePixels (e : Nat) (bs : List Byte) : List Word :=
  (List.range (bs.length / e)).map fun k => wordOfBytes ((bs.drop (k * e)).take e)

/-- The bytes of a native stream that do not yet form a pixel (R45, R220). -/
def nativeRest (e : Nat) (bs : List Byte) : List Byte := bs.drop (bs.length / e * e)

theorem nativePixels_of_short {e : Nat} {bs : List Byte} (h : bs.length < e) : nativePixels e bs = [] := by
  rw [nativePixels, Nat.div_eq_of_lt h]
  rfl

theorem nativeRest_of_short {e : Nat} {bs : List Byte} (h : bs.length < e) : nativeRest e bs = bs := by
  rw [nativeRest, Nat.div_eq_of_lt h, Nat.zero_mul, List.drop_zero]

theorem length_drop_div {e : Nat} {bs : List Byte} (he : 0 < e) (h : e ≤ bs.length) :
    bs.length / e = (bs.drop e).length / e + 1 := by
  rw [List.length_drop, Nat.div_eq_sub_div he h]

theorem nativePixels_of_le {e : Nat} {bs : List Byte} (he : 0 < e) (h : e ≤ bs.length) :
    nativePixels e bs = wordOfBytes (bs.take e) :: nativePixels e (bs.drop e) := by
  rw [nativePixels, length_drop_div he h, List.range_succ_eq_map, List.map_cons, List.map_map, Nat.zero_mul,
    List.drop_zero, nativePixels]
  simp only [Function.comp_def, List.drop_drop, Nat.succ_mul, Nat.add_comm]

theorem nativeRest_of_le {e : Nat} {bs : List Byte} (he : 0 < e) (h : e ≤ bs.length) :
    nativeRest e bs = nativeRest e (bs.drop e) := by
  rw [nativeRest, length_drop_div he h, nativeRest, List.drop_drop, Nat.succ_mul, Nat.add_comm]

/-- Bytes that form one pixel are the first pixel of a stream they open (R220). -/
theorem nativePixels_append {e : Nat} {r : List Byte} (he : 0 < e) (h : r.length = e) (bs : List Byte) :
    nativePixels e (r ++ bs) = wordOfBytes r :: nativePixels e bs := by
  subst h
  rw [nativePixels_of_le he (by rw [List.length_append]; omega), List.take_left, List.drop_left]

theorem nativeRest_append {e : Nat} {r : List Byte} (he : 0 < e) (h : r.length = e) (bs : List Byte) :
    nativeRest e (r ++ bs) = nativeRest e bs := by
  subst h
  rw [nativeRest_of_le he (by rw [List.length_append]; omega), List.drop_left]

/-- Taking pixels off the front while there is one takes all of them (R220). -/
theorem takePixels_eq {e : Nat} (he : 0 < e) {fuel : Nat} {bs : List Byte} (hf : bs.length ≤ fuel) :
    takePixels e fuel bs = (nativePixels e bs, nativeRest e bs) := by
  induction fuel generalizing bs with
  | zero =>
    have hshort : bs.length < e := by omega
    rw [takePixels, nativePixels_of_short hshort, nativeRest_of_short hshort]
  | succ n ih =>
    unfold takePixels
    split
    · rename_i hle
      rw [ih (by rw [List.length_drop]; omega), nativePixels_of_le he hle, nativeRest_of_le he hle]
    · rename_i hle
      rw [nativePixels_of_short (Nat.lt_of_not_le hle), nativeRest_of_short (Nat.lt_of_not_le hle)]

/-- The source pixels of CPU data for a continuation that holds no bytes (R219, R220). -/
def dataPixels (e : Nat) (c : Cont) (bs : List Byte) : List Word :=
  if srcMono c.flags then bs.flatMap (monoPixels c) else nativePixels e bs

/-- The bytes of CPU data that the continuation keeps for the next pixel (R45, R220). -/
def dataRest (e : Nat) (c : Cont) (bs : List Byte) : List Byte := if srcMono c.flags then [] else nativeRest e bs

theorem length_flatMap_monoPixels (c : Cont) (bs : List Byte) : (bs.flatMap (monoPixels c)).length = 8 * bs.length := by
  induction bs with
  | nil => rfl
  | cons b bs ih => rw [List.flatMap_cons, List.length_append, ih, List.length_cons, Nat.mul_succ, Nat.add_comm]; rfl

theorem length_dataPixels (e : Nat) (c : Cont) (bs : List Byte) :
    (dataPixels e c bs).length = if srcMono c.flags then 8 * bs.length else bs.length / e := by
  unfold dataPixels
  split
  · exact length_flatMap_monoPixels c bs
  · rw [nativePixels, List.length_map, List.length_range]

/-! ## A feed is its pixels -/

theorem feedPixels_cons_none {p : Word} {ps : List Word} {c : Cont} {s : State} (h : advance c = none) :
    feedPixels (p :: ps) c s = (drawPixel p c s, none) := by
  simp only [feedPixels, h]

theorem feedPixels_cons_some {p : Word} {ps : List Word} {c d : Cont} {s : State} (h : advance c = some d) :
    feedPixels (p :: ps) c s = feedPixels ps d (drawPixel p c s) := by
  simp only [feedPixels, h]

/-- After the last pixel of the rectangle the sources that follow are lost (R222). -/
theorem feedPixels_append_none {ps qs : List Word} {c : Cont} {s : State} (h : (feedPixels ps c s).2 = none) :
    feedPixels (ps ++ qs) c s = feedPixels ps c s := by
  induction ps generalizing c s with
  | nil => cases h
  | cons p ps ih =>
    rw [List.cons_append]
    cases ha : advance c with
    | none => rw [feedPixels_cons_none ha, feedPixels_cons_none ha]
    | some d =>
      rw [feedPixels_cons_some ha] at h
      rw [feedPixels_cons_some ha, feedPixels_cons_some ha, ih h]

/-- While pixels are left the sources that follow go on where the first ones stopped (R221). -/
theorem feedPixels_append_some {ps qs : List Word} {c d : Cont} {s : State} (h : (feedPixels ps c s).2 = some d) :
    feedPixels (ps ++ qs) c s = feedPixels qs d (feedPixels ps c s).1 := by
  induction ps generalizing c s with
  | nil => cases h; rfl
  | cons p ps ih =>
    rw [List.cons_append]
    cases ha : advance c with
    | none =>
      rw [feedPixels_cons_none ha] at h
      cases h
    | some e =>
      rw [feedPixels_cons_some ha] at h
      rw [feedPixels_cons_some ha, feedPixels_cons_some ha, ih h]

/-- The bytes held do not steer the cursors (R216). -/
theorem advance_setResidual (c : Cont) (r : List Byte) :
    advance { c with residual := r } = (advance c).map fun d => { d with residual := r } := by
  rw [advance, advance, apply_ite (Option.map _), apply_ite (Option.map _)]
  rfl

/-- Mono bytes are their pixels, eight a byte (R219). -/
theorem feedBytes_of_mono {c : Cont} (hm : srcMono c.flags = true) (bs : List Byte) (s : State) :
    feedBytes bs c s = feedPixels (bs.flatMap (monoPixels c)) c s := by
  induction bs generalizing c s with
  | nil => rfl
  | cons b bs ih =>
    have hb : feedByte b c s = feedPixels (monoPixels c b) c s := by rw [feedByte, if_pos hm]
    rw [List.flatMap_cons]
    cases hd : (feedPixels (monoPixels c b) c s).2 with
    | none => rw [feedBytes_cons_none (hb ▸ hd), hb, feedPixels_append_none hd]
    | some d =>
      have hsame : SameSnapshot c d := feedPixels_keepsCont (sameSnapshot_keptByFeed c) (.refl c) hd
      have hmono : srcMono d.flags = true := by rw [hsame]; exact hm
      have hpix : monoPixels d = monoPixels c := by rw [hsame]; rfl
      rw [feedBytes_cons_some (hb ▸ hd), hb, feedPixels_append_some hd, ih hmono, hpix]

/-- A native byte that does not complete a pixel is held (R45, R220). -/
theorem feedByte_of_native_short {c : Cont} (hm : srcMono c.flags = false) {b : Byte} {s : State}
    (h : (c.residual ++ [b]).length < s.accelBpp.bytes) :
    feedByte b c s = (s, some { c with residual := c.residual ++ [b] }) := by
  rw [feedByte, takePixels_eq s.accelBpp.bytes_pos le_rfl, nativePixels_of_short h, nativeRest_of_short h, hm]
  rfl

/-- A native byte that completes a pixel has it drawn, and no byte is held (R220). -/
theorem feedByte_of_native_full {c : Cont} (hm : srcMono c.flags = false) {b : Byte} {s : State}
    (h : (c.residual ++ [b]).length = s.accelBpp.bytes) :
    feedByte b c s =
      (drawPixel (wordOfBytes (c.residual ++ [b])) c s, (advance c).map fun d => { d with residual := [] }) := by
  have hpos := s.accelBpp.bytes_pos
  have hone := nativePixels_append hpos h []
  have hnone := nativeRest_append hpos h []
  rw [List.append_nil, nativePixels_of_short (bs := []) hpos] at hone
  rw [List.append_nil, nativeRest_of_short (bs := []) hpos] at hnone
  rw [feedByte, takePixels_eq hpos le_rfl, hone, hnone, hm]
  have hadv := advance_setResidual c []
  show feedPixels [_] { c with residual := [] } s = _
  cases ha : advance c with
  | none =>
    rw [ha] at hadv
    exact feedPixels_cons_none hadv
  | some d =>
    rw [ha] at hadv
    exact feedPixels_cons_some hadv

theorem drawPixel_accelBpp (p : Word) (c : Cont) (s : State) : (drawPixel p c s).accelBpp = s.accelBpp := by
  have hpix : PixelsOnly s (drawPixel p c s) := drawPixel_keeps (pixelsOnly_kept s) p c (.refl s)
  rw [hpix]

/-- Native bytes are the pixels that they form with the bytes held, and the bytes left over are held (R220). -/
theorem feedBytes_of_native {c : Cont} (hm : srcMono c.flags = false) {s : State}
    (hr : c.residual.length < s.accelBpp.bytes) (bs : List Byte) :
    feedBytes bs c s =
      feedPixels (nativePixels s.accelBpp.bytes (c.residual ++ bs))
        { c with residual := nativeRest s.accelBpp.bytes (c.residual ++ bs) } s := by
  have hpos := s.accelBpp.bytes_pos
  induction bs generalizing c s with
  | nil => rw [List.append_nil, nativePixels_of_short hr, nativeRest_of_short hr]; rfl
  | cons b bs ih =>
    have hlen : (c.residual ++ [b]).length = c.residual.length + 1 := List.length_append
    rw [List.append_cons]
    rcases Nat.lt_or_eq_of_le (hlen ▸ hr : (c.residual ++ [b]).length ≤ s.accelBpp.bytes) with hshort | hfull
    · have hb := feedByte_of_native_short hm hshort
      rw [feedBytes_cons_some (by rw [hb]), hb]
      exact ih (c := { c with residual := c.residual ++ [b] }) hm hshort hpos
    · have hb := feedByte_of_native_full hm hfull
      have hadv := advance_setResidual c (nativeRest s.accelBpp.bytes bs)
      rw [nativePixels_append hpos hfull, nativeRest_append hpos hfull]
      cases ha : advance c with
      | none =>
        rw [ha] at hb hadv
        rw [feedBytes_cons_none (by rw [hb]; rfl), hb, feedPixels_cons_none hadv]
        rfl
      | some d =>
        have hsame : SameSnapshot c d := advance_sameSnapshot ha
        have hnative : srcMono d.flags = false := by rw [hsame]; exact hm
        have hbpp := drawPixel_accelBpp (wordOfBytes (c.residual ++ [b])) c s
        rw [ha] at hb hadv
        rw [feedBytes_cons_some (by rw [hb]; rfl), hb, feedPixels_cons_some hadv,
          ih (c := { d with residual := [] }) hnative (by rw [hbpp]; exact hpos) (by rw [hbpp]; exact hpos), hbpp]
        rfl

/-- CPU data are the source pixels they hold, from a continuation that holds no bytes (R219, R220, R221). -/
theorem feedBytes_eq_feedPixels {c : Cont} (hr : c.residual = []) (bs : List Byte) (s : State) :
    feedBytes bs c s =
      feedPixels (dataPixels s.accelBpp.bytes c bs) { c with residual := dataRest s.accelBpp.bytes c bs } s := by
  unfold dataPixels dataRest
  cases hm : srcMono c.flags with
  | true =>
    rw [if_pos rfl, if_pos rfl, ← hr]
    exact feedBytes_of_mono hm bs s
  | false =>
    have hnative := feedBytes_of_native hm (s := s) (by rw [hr]; exact s.accelBpp.bytes_pos) bs
    rwa [hr, List.nil_append] at hnative

/-! ## Sources along the raster walk -/

/-- Sources passed from pixel `k` on draw the pixels that follow, until the rectangle or they end (R221, R222). -/
theorem feedPixels_pixelAt (ps : List Word) {c : Cont} {k : Nat} (hk : k < pixelCount c) (s : State) :
    feedPixels ps (pixelAt c k) s =
      ((List.range (min (pixelCount c - k) ps.length)).foldl
          (fun t i => drawPixel (ps.getD i 0) (pixelAt c (k + i)) t) s,
        if k + ps.length < pixelCount c then some (pixelAt c (k + ps.length)) else none) := by
  induction ps generalizing k s with
  | nil => rw [List.length_nil, Nat.min_zero, Nat.add_zero, if_pos hk]; rfl
  | cons p ps ih =>
    have hadv := advance_pixelAt hk
    have hcount : min (pixelCount c - k) (p :: ps).length = min (pixelCount c - (k + 1)) ps.length + 1 := by
      rw [List.length_cons]
      omega
    rw [hcount, List.range_succ_eq_map, List.foldl_cons, List.foldl_map, List.length_cons]
    by_cases hlast : k + 1 < pixelCount c
    · rw [if_pos hlast] at hadv
      rw [feedPixels_cons_some hadv, ih hlast]
      simp only [List.getD_cons_succ, Nat.succ_eq_add_one, Nat.add_assoc, Nat.add_comm 1]
      rfl
    · rw [if_neg hlast] at hadv
      rw [feedPixels_cons_none hadv, if_neg (by omega), show pixelCount c - (k + 1) = 0 by omega, Nat.zero_min]
      rfl

/-- CPU data from the start of a rectangle: the pixels drawn, and where the walk stands after them (R221, R222). -/
theorem feedBytes_start {c : Cont} (hc : contAt c 0 0 = c) (hr : c.residual = []) (bs : List Byte) (s : State) :
    feedBytes bs c s =
      ((List.range (min (pixelCount c) (dataPixels s.accelBpp.bytes c bs).length)).foldl
          (fun t k => drawPixel ((dataPixels s.accelBpp.bytes c bs).getD k 0) (pixelAt c k) t) s,
        if (dataPixels s.accelBpp.bytes c bs).length < pixelCount c then
          some
            { pixelAt c (dataPixels s.accelBpp.bytes c bs).length with
              residual := dataRest s.accelBpp.bytes c bs }
        else none) := by
  have hstart := congrArg (fun d => { d with residual := dataRest s.accelBpp.bytes c bs }) ((pixelAt_zero c).trans hc)
  have hwalk := feedPixels_pixelAt (dataPixels s.accelBpp.bytes c bs)
    (c := { c with residual := dataRest s.accelBpp.bytes c bs }) (pixelCount_pos c) s
  simp only [Nat.zero_add, Nat.sub_zero] at hwalk
  rw [feedBytes_eq_feedPixels hr]
  exact (congrArg (feedPixels _ · s) hstart).symm.trans hwalk

/-- Settles O37: the data as source pixels, drawn along the walk; only bytes of its elements can change. -/
theorem feedDrawsPixelsInOrder : Obligations.FeedDrawsPixelsInOrder := by
  unfold Obligations.FeedDrawsPixelsInOrder
  intro s c bs srcs hs hc hr hsrcs
  obtain rfl : srcs = dataPixels s.accelBpp.bytes c bs := hsrcs
  have hfeed := feed_awaiting hs bs
  rw [feedBytes_start hc hr, apply_ite engAfter] at hfeed
  refine ⟨hfeed, fun a hwf ho => ?frame⟩
  case frame =>
    rw [hfeed]
    exact (untouched_foldl_drawPixel hwf _ (fun _ k => (dataPixels s.accelBpp.bytes c bs).getD k 0) fun k hk =>
      ho k (Nat.lt_of_lt_of_le (List.mem_range.mp hk) (Nat.min_le_left _ _))).sameByte

/-! ## Completion -/

/-- Two continuations that stand at the same pixel of rectangles of one size, wherever those lie in video memory. -/
structure SameProgress (c d : Cont) : Prop where
  x : c.x = d.x
  y : c.y = d.y
  sizeX : c.sizeX = d.sizeX
  sizeY : c.sizeY = d.sizeY

/-- `advance` decides by the counters and the sizes alone (R216). -/
theorem advance_sameProgress {c d : Cont} (h : SameProgress c d) : Option.Rel SameProgress (advance c) (advance d) := by
  have hx : (stepX c).x = (stepX d).x := congrArg (· + 1) h.x
  have hy : (nextRow (stepX c)).y = (nextRow (stepX d)).y := congrArg (· + 1) h.y
  rw [advance, advance, hx, hy, h.sizeX, h.sizeY]
  split_ifs
  · exact .none
  · exact .some ⟨rfl, hy, h.sizeX, h.sizeY⟩
  · exact .some ⟨hx, h.y, h.sizeX, h.sizeY⟩

theorem feedPixels_none_iff_of_sameProgress {c d : Cont} (h : SameProgress c d) (ps : List Word) (s t : State) :
    (feedPixels ps c s).2 = none ↔ (feedPixels ps d t).2 = none := by
  induction ps generalizing c d s t with
  | nil => exact iff_of_false (Option.some_ne_none c) (Option.some_ne_none d)
  | cons p ps ih =>
    have hadv := advance_sameProgress h
    generalize hc : advance c = oc, hd : advance d = od at hadv
    cases hadv with
    | none => rw [feedPixels_cons_none hc, feedPixels_cons_none hd]
    | some hnext =>
      rw [feedPixels_cons_some hc, feedPixels_cons_some hd]
      exact ih hnext _ _

/-- From the first pixel the rectangle is done when there is a source for each pixel (R222). -/
theorem feedPixels_none_iff {c : Cont} (hx : c.x = 0) (hy : c.y = 0) (ps : List Word) (s : State) :
    (feedPixels ps c s).2 = none ↔ pixelCount c ≤ ps.length := by
  have hstart : SameProgress c (pixelAt c 0) := by
    rw [pixelAt_zero]
    exact ⟨hx, hy, rfl, rfl⟩
  rw [feedPixels_none_iff_of_sameProgress hstart ps s s, feedPixels_pixelAt ps (pixelCount_pos c), Nat.zero_add]
  simp

theorem engAfter_eq_idle_iff (o : Option Cont) : engAfter o = .idle ↔ o = none := by cases o <;> simp [engAfter]

/-- Settles O39: the command completes when its data hold a source for each pixel of the rectangle. -/
theorem cpuDataCompletesBitblt : Obligations.CpuDataCompletesBitblt := by
  unfold Obligations.CpuDataCompletesBitblt
  intro s c bs hs hx hy hr
  have hdone : (feed bs s).eng = .idle ↔ pixelCount c ≤ if srcMono c.flags then 8 * bs.length
      else bs.length / s.accelBpp.bytes := by
    rw [feed_eng hs, engAfter_eq_idle_iff, feedBytes_eq_feedPixels hr, ← length_dataPixels]
    exact feedPixels_none_iff (c := { c with residual := dataRest s.accelBpp.bytes c bs }) hx hy _ s
  refine ⟨fun hmono => ?mono, fun hnative => ?native⟩
  case mono => rwa [srcMono, if_pos hmono] at hdone
  case native => rwa [srcMono, hnative, if_neg Bool.false_ne_true, Nat.le_div_iff_mul_le s.accelBpp.bytes_pos] at hdone

end Sys2Proof.Machine
end

section
/-!
PROOFS. The code of a BitBLT and the codes that start nothing: which form of BITBLT runs (R230), what its snapshot holds
when it awaits CPU data (R202, R203, R210, R211, R233, R234), which writes are that data (R236), and the no-operation
(R260).
-/

namespace Sys2Proof.Machine

/-! ## CPU data -/

theorem isFeedRoute_iff {cfg : Config} {r : Route} :
    isFeedRoute cfg r = true ↔
      (∃ w, r = .banked w ∧ cfg.feedBanked = true) ∨ ∃ l, r = .linear l ∧ cfg.feedLinear = true := by
  cases r <;> simp [isFeedRoute]

/-- A write to a feed aperture of a busy engine is CPU data (R180, R236). -/
theorem memWrite_of_fed {s : State} {a : Word} (hbusy : busy s = true) (hroute : isFeedRoute s.cfg (route s a) = true)
    (n : Width) (v : Word) : memWrite a n v s = .ok (feed (bytesOf n.bytes v) s) := by
  rw [memWrite, hbusy, hroute]
  rfl

/-- Settles O36: the two flags name the feed apertures, and there the row and the transaction are one feed. -/
theorem feedIsCpuData : Obligations.FeedIsCpuData := by
  unfold Obligations.FeedIsCpuData
  refine ⟨fun cfg r => isFeedRoute_iff, fun s a n v hbusy hroute => ?fed⟩
  case fed =>
    have hfeed := congrArg outcomeOf (memWrite_of_fed hbusy hroute n v)
    exact ⟨(exec_feed a n v s).trans hfeed, (exec_memWrite a n v s).trans hfeed, feed_sameButEngine _ s⟩

/-! ## The forms of BITBLT -/

/-- Every row of the code 0x01 starts the BitBLT of the registers as they are (R230). -/
theorem exec_of_bitbltCode {i : Instr} (hk : (encode i).kind = .command ∨ (encode i).kind = .commandFlags)
    (hkey : (encode i).key.setWidth 8 = (0x01 : Byte)) (s : State) :
    exec i s = .next (bitbltStart (snapshot s) (acceptCommand 0x01 s)) := by
  rw [exec_of_command hk, hkey]
  rfl

/-- Settles O40: the six rows are one start, which tests the flags and `use_src` in the order of R230. -/
theorem bitbltSelectsItsForm : Obligations.BitbltSelectsItsForm := by
  unfold Obligations.BitbltSelectsItsForm
  intro s
  refine ⟨bitbltStart (snapshot s) (acceptCommand 0x01 s), exec_of_bitbltCode (.inl rfl) rfl s,
    exec_of_bitbltCode (.inr rfl) rfl s, exec_of_bitbltCode (.inr rfl) rfl s, exec_of_bitbltCode (.inr rfl) rfl s,
    exec_of_bitbltCode (.inr rfl) rfl s, exec_of_bitbltCode (.inr rfl) rfl s, ?form⟩
  case form =>
    cases hdisp : s.flags.getLsbD 2 with
    | true => exact bitbltStart_of_srcDisp (c := snapshot s) hdisp _
    | false =>
      cases hpat : s.flags.getLsbD 1 with
      | true => exact bitbltStart_of_srcPat (c := snapshot s) hdisp hpat _
      | false => exact bitbltStart_of_cpu (c := snapshot s) hdisp hpat _

/-! ## The snapshot -/

/-- The pitch is a multiple of the row offset that shrinks with the element size (R202). -/
theorem pitchOf_eq (d : AccelBpp) (r : Word) :
    pitchOf d r = r * (match d with | .bpp8 => 8 | .bpp16 => 4 | .bpp32 => 2) := by
  cases d <;> rfl

/-- An offset of signed coordinates is the sum of the rules' numbers, modulo 2^32 (R13, R210). -/
theorem sint16_offset_eq_ofInt (x y : Half) (p : Word) :
    sint16 x + sint16 y * p = BitVec.ofInt 32 (x.toInt + y.toInt * p.toNat) := by
  rw [BitVec.ofInt_add, BitVec.ofInt_mul, BitVec.ofInt_natCast, BitVec.ofNat_toNat, BitVec.setWidth_eq]
  rfl

/-- Where the CPU is the source and the ROP reads it, every row of the code 0x01 suspends with the snapshot, no pixel
written (R230, R233, R234). -/
theorem exec_of_bitbltCode_awaits {i : Instr} (hk : (encode i).kind = .command ∨ (encode i).kind = .commandFlags)
    (hkey : (encode i).key.setWidth 8 = (0x01 : Byte)) {s : State} (hdisp : srcDisp s.flags = false)
    (hpat : srcPat s.flags = false) (huse : s.useSrc ≠ 0) :
    exec i s = .next { s with command := 0x01, eng := .awaitSrc (snapshot s) } := by
  rw [exec_of_bitbltCode hk hkey, bitbltStart_of_cpu (c := snapshot s) hdisp hpat, acceptCommand_useSrc,
    if_neg huse]
  rfl

/-- Settles O41: the fields of the snapshot, and the suspension that holds it. -/
theorem cpuSourceAwaitsData : Obligations.CpuSourceAwaitsData := by
  unfold Obligations.CpuSourceAwaitsData
  intro s
  refine ⟨snapshot s, rfl, fun hdisp hpat huse => ?awaits, rfl, rfl, rfl, rfl, rfl, rfl, rfl, rfl, rfl, rfl,
    pitchOf_eq s.accelBpp s.rowOffset, sint16_toInt s.dstX, sint16_toInt s.dstY, rfl,
    sint16_offset_eq_ofInt s.srcX s.srcY _, sint16_offset_eq_ofInt s.dstX s.dstY _, rfl, rfl, rfl, rfl⟩
  case awaits =>
    exact ⟨exec_of_bitbltCode_awaits (.inr rfl) rfl hdisp hpat huse,
      exec_of_bitbltCode_awaits (.inr rfl) rfl hdisp hpat huse⟩

/-! ## No-operations -/

theorem hasFastline_iff {cfg : Config} : hasFastline cfg = true ↔ cfg.fastlineMinGen.rank ≤ cfg.gen.rank :=
  decide_eq_true_iff

theorem exec_fastline (s : State) :
    exec .fastline s =
      .next (if hasFastline s.cfg then runFastline (snapshot s) (acceptCommand 0x06 s) else acceptCommand 0x06 s) :=
  exec_of_command (.inl rfl) s

theorem namedCommandCode_eq_false {c : Byte} (h1 : c ≠ 1) (h3 : c ≠ 3) (h4 : c ≠ 4) (h5 : c ≠ 5) (h6 : c ≠ 6) :
    namedCommandCode c = false := by
  simpa [namedCommandCode] using ⟨⟨⟨⟨h1, h3⟩, h4⟩, h5⟩, h6⟩

/-- Settles O47: such a code is stored and aborts, and no command follows. -/
theorem nopCommandsOnlyAbort : Obligations.NopCommandsOnlyAbort := by
  unfold Obligations.NopCommandsOnlyAbort
  refine ⟨fun s code h1 h3 h4 h5 h6 => ?unnamed, fun s hgen => ?noFastline⟩
  case unnamed =>
    show execNopCmd code s = _
    rw [execNopCmd, namedCommandCode_eq_false h1 h3 h4 h5 h6]
    rfl
  case noFastline => rw [exec_fastline, if_neg (mt hasFastline_iff.mp (Nat.not_le_of_lt hgen))]; rfl

end Sys2Proof.Machine
end

section
/-!
PROOFS. The row of a scanline and the points of a line: each loop as a walk with its pixels in order (R240, R245, R250,
R255), and the bytes of video memory the walks leave alone (R64).
-/

namespace Sys2Proof.Machine

/-! ## The row of a scanline -/

/-- The loop of a scanline from column `i` on draws the columns that are left (R240). -/
theorem scanlineLoop_contAt {c : Cont} {i n : Nat} (hn : i + n = extent c.sizeX + 1) (s : State) :
    scanlineLoop n (contAt c i 0) s = (List.range' i n).foldl (fun t k => scanlinePixel (contAt c k 0) t) s := by
  induction n generalizing i s with
  | zero => rfl
  | succ n ih =>
    have hlast : beyond (contAt c (i + 1) 0).x (contAt c i 0).sizeX = decide (extent c.sizeX < i + 1) :=
      beyond_ofNat c.sizeX (by omega) (by omega)
    rw [scanlineLoop, stepX_contAt, hlast, List.range'_succ, List.foldl_cons]
    cases n with
    | zero => rw [if_pos (decide_eq_true (by omega))]; rfl
    | succ n => rw [if_neg (by simp; omega)]; exact ih (by omega) _

/-- A scanline draws its columns in order (R240). -/
theorem runScanline_eq_foldl {c : Cont} (hc : contAt c 0 0 = c) (s : State) :
    runScanline c s =
      (List.range (extent c.sizeX + 1)).foldl (fun t k => scanlinePixel (contAt c k 0) t) s := by
  have hloop := scanlineLoop_contAt (Nat.zero_add (extent c.sizeX + 1)) s
  rwa [hc, ← List.range_eq_range'] at hloop

theorem exec_scanline (s : State) :
    exec .scanline s =
      .next ((List.range (extent s.sizeX + 1)).foldl (fun t k => scanlinePixel (contAt (snapshot s) k 0) t)
        (acceptCommand 0x03 s)) :=
  congrArg _ (runScanline_eq_foldl (contAt_snapshot s) _)

/-- One scanline pixel, written out (R213, R215, R240). -/
theorem scanlinePixel_eq (c : Cont) (s : State) :
    scanlinePixel c s =
      if clipOk s.cfg c.clip c.dx c.dy = true then
        writePixel s c.dstOff
          (mix c.rop (readPixel s c.dstOff) (patAt c c.dx c.dy)
            (if c.flags.getLsbD 2 = false ∧ c.flags.getLsbD 1 = true then patAt c c.dx c.dy
              else readPixel s c.srcOff))
      else s := by
  rw [scanlinePixel, scanlineSource_eq]
  rfl

/-- Settles O44: the loop is the walk of the row, and each pixel is the one R240 writes out. -/
theorem scanlineIsRowWalk : Obligations.ScanlineIsRowWalk := by
  unfold Obligations.ScanlineIsRowWalk
  intro s
  rw [exec_scanline]
  simp only [scanlinePixel_eq]
  rfl

/-! ## The points of a line -/

/-- The counter of a line counts its steps (R245). -/
theorem lineAt_i {step : LineCursor → LineCursor} {p : LineCursor} (hstep : ∀ q, (step q).i = q.i + 1)
    (h0 : p.i = 0) (k : Nat) : (lineAt step p k).i = BitVec.ofNat 32 k := by
  induction k with
  | zero => exact h0
  | succ k ih => rw [lineAt, hstep, ih, BitVec.ofNat_add]; rfl

/-- The loop of a line from point `k` on plots the points that are left (R245, R250). -/
theorem lineLoop_lineAt {c : Cont} {step : LineCursor → LineCursor} {p : LineCursor}
    (hstep : ∀ q, (step q).i = q.i + 1) (h0 : p.i = 0) {k n : Nat} (hn : k + n = extent c.sizeY + 1) (s : State) :
    lineLoop c step n (lineAt step p k) s =
      (List.range' k n).foldl (fun t j => plot c (lineAt step p j).px (lineAt step p j).py t) s := by
  induction n generalizing k s with
  | zero => rfl
  | succ n ih =>
    have hlast : beyond (step (lineAt step p k)).i c.sizeY = decide (extent c.sizeY < k + 1) := by
      have hcount : (step (lineAt step p k)).i = BitVec.ofNat 32 (k + 1) := lineAt_i hstep h0 (k + 1)
      rw [hcount]
      exact beyond_ofNat c.sizeY (by omega) (by omega)
    rw [lineLoop, hlast, List.range'_succ, List.foldl_cons]
    cases n with
    | zero => rw [if_pos (decide_eq_true (by omega))]; rfl
    | succ n => rw [if_neg (by simp; omega)]; exact ih (k := k + 1) (by omega) _

/-- Plot the points of a command's line one after the other (R245, R250). -/
def plotLine (c : Cont) (step : LineCursor → LineCursor) (s : State) : State :=
  (List.range (extent c.sizeY + 1)).foldl
    (fun t k => plot c (lineAt step (lineStart c) k).px (lineAt step (lineStart c) k).py t) s

/-- From its start the loop of a line plots the line. -/
theorem lineLoop_eq_plotLine {step : LineCursor → LineCursor} (hstep : ∀ q, (step q).i = q.i + 1) (c : Cont)
    (s : State) : lineLoop c step (extent c.sizeY + 1) (lineStart c) s = plotLine c step s := by
  have hloop := lineLoop_lineAt (p := lineStart c) hstep rfl (Nat.zero_add (extent c.sizeY + 1)) s
  rwa [← List.range_eq_range'] at hloop

theorem exec_bresenham (s : State) :
    exec .bresenham s =
      .next (plotLine (snapshot s) (bresenhamStep s.flags (sint16 s.srcY) (sint16 s.srcX)) (acceptCommand 0x04 s)) :=
  congrArg _ (lineLoop_eq_plotLine (fun _ => rfl) (snapshot s) (acceptCommand 0x04 s))

theorem exec_shortvec (s : State) :
    exec .shortvec s = .next (plotLine (snapshot s) (compassStep s.flags) (acceptCommand 0x05 s)) :=
  congrArg _ (lineLoop_eq_plotLine (fun _ => rfl) (snapshot s) (acceptCommand 0x05 s))

theorem runFastline_eq_plotLine (s : State) :
    runFastline (snapshot s) (acceptCommand 0x06 s) =
      plotLine (snapshot s) (compassStep s.flags) (acceptCommand 0x06 s) :=
  lineLoop_eq_plotLine (fun _ => rfl) (snapshot s) (acceptCommand 0x06 s)

/-! ## Bresenham lines -/

theorem signOf_step (neg : Bool) : (signOf neg).step = if neg then -1 else 1 := by cases neg <;> rfl

/-- One Bresenham step by the sign of the error term (R245). -/
theorem bresenhamStep_eq (flags k1 k2 : Word) (p : LineCursor) :
    bresenhamStep flags k1 k2 p =
      { px := if flags.getLsbD 10 = false ∨ 0 ≤ p.err.toInt then
          p.px + (if flags.getLsbD 9 then -1 else 1) else p.px
        py := if flags.getLsbD 10 = true ∨ 0 ≤ p.err.toInt then
          p.py + (if flags.getLsbD 8 then -1 else 1) else p.py
        err := if 0 ≤ p.err.toInt then p.err + k2 else p.err + k1
        i := p.i + 1 } := by
  have hdiagonal : p.err.msb = false ↔ 0 ≤ p.err.toInt := by
    rw [BitVec.msb_eq_toInt, decide_eq_false_iff_not, not_lt]
  simp only [bresenhamStep, signOf_step, Bool.or_eq_true, Bool.not_eq_true', hdiagonal, yMaj, xNeg, yNeg]

/-- Settles O45: the loop plots the iterated step, which goes by the sign of the error term. -/
theorem bresenhamIsIteratedWalk : Obligations.BresenhamIsIteratedWalk := by
  unfold Obligations.BresenhamIsIteratedWalk
  intro s
  rw [exec_bresenham, funext (bresenhamStep_eq s.flags (sint16 s.srcY) (sint16 s.srcX))]
  rfl

/-! ## Vectors -/

/-- The table of R103. -/
theorem compass_table :
    ∀ e ∈ ([(0, 1, 0), (1, 1, -1), (2, 0, -1), (3, -1, -1), (4, -1, 0), (5, -1, 1), (6, 0, 1), (7, 1, 1)] :
      List (BitVec 3 × Word × Word)), compass e.1 = e.2 := by
  intro e he
  fin_cases he <;> rfl

/-- A vector goes straight: its point `k` lies `k` compass steps from the start (R250). -/
theorem lineAt_compassStep (flags : Word) (p : LineCursor) (k : Nat) :
    (lineAt (compassStep flags) p k).px = p.px + BitVec.ofNat 32 k * (compass (octant flags)).1 ∧
    (lineAt (compassStep flags) p k).py = p.py + BitVec.ofNat 32 k * (compass (octant flags)).2 := by
  induction k with
  | zero => simp [lineAt]
  | succ k ih =>
    obtain ⟨hx, hy⟩ := ih
    simp only [lineAt, compassStep, hx, hy, ofNat_succ_mul, BitVec.add_assoc, and_self]

/-- The line of a vector, its points written out from the destination registers (R250). -/
theorem plotLine_compassStep (s t : State) :
    plotLine (snapshot s) (compassStep s.flags) t =
      (List.range (extent s.sizeY + 1)).foldl
        (fun t k => plot (snapshot s) (sint16 s.dstX + BitVec.ofNat 32 k * (compass (octant s.flags)).1)
          (sint16 s.dstY + BitVec.ofNat 32 k * (compass (octant s.flags)).2) t) t := by
  simp only [plotLine, lineAt_compassStep]
  rfl

/-- Settles O46: both commands plot the line of the compass step, which the table gives. -/
theorem vectorsFollowCompass : Obligations.VectorsFollowCompass := by
  unfold Obligations.VectorsFollowCompass
  intro s sx sy hcode
  have hcompass : compass (octant s.flags) = (sx, sy) := compass_table _ hcode
  have hline (t : State) := plotLine_compassStep s t
  rw [hcompass] at hline
  refine ⟨?shortvec, fun hgen => ?fastline⟩
  case shortvec => exact (exec_shortvec s).trans (congrArg _ (hline _))
  case fastline =>
    rw [exec_fastline, if_pos (hasFastline_iff.mpr hgen), runFastline_eq_plotLine]
    exact congrArg _ (hline _)

/-! ## The memory frame -/

theorem Untouched.scanlinePixel {s t : State} {a : Nat} {c : Cont} (h : Untouched a s t)
    (ho : ¬ InElem s c.dstOff a) : Untouched a s (scanlinePixel c t) := by
  unfold Machine.scanlinePixel
  split
  · exact h.writePixel ho _
  · exact h

theorem Untouched.plot {s t : State} {a : Nat} {c : Cont} {px py : Word} (h : Untouched a s t)
    (ho : ¬ InElem s (px + py * c.pitch) a) : Untouched a s (plot c px py t) := by
  unfold Machine.plot
  split
  · exact h.writePixel ho _
  · exact h

/-- Plotting a line leaves a byte outside the elements of its points. -/
theorem untouched_plotLine {s : State} {a : Nat} {c : Cont} {step : LineCursor → LineCursor} (hwf : Memory.wf s.vram)
    (ho : ∀ k, k ≤ extent c.sizeY →
      ¬ InElem s ((lineAt step (lineStart c) k).px + (lineAt step (lineStart c) k).py * c.pitch) a) :
    Untouched a s (plotLine c step s) :=
  (List.range _).foldlRecOn _ (.refl hwf a) fun _ ht k hk => ht.plot (ho k (Nat.le_of_lt_succ (List.mem_range.mp hk)))

/-- Settles O50: only the pixels of the walk are written; a fast line that the generation lacks writes none. -/
theorem linesLeaveOtherBytes : Obligations.LinesLeaveOtherBytes := by
  unfold Obligations.LinesLeaveOtherBytes
  intro s a hwf
  refine ⟨fun ho => ⟨_, exec_scanline s, ?scanline⟩, fun ho => ⟨_, exec_bresenham s, ?bresenham⟩,
    fun ho => ⟨_, _, exec_shortvec s, ?shortvec, exec_fastline s, ?fastline⟩⟩
  case scanline =>
    exact ((List.range _).foldlRecOn _ (Untouched.refl (s := acceptCommand 0x03 s) hwf a)
      fun _ ht k hk => ht.scanlinePixel (ho k (Nat.le_of_lt_succ (List.mem_range.mp hk)))).sameByte
  case bresenham => exact (untouched_plotLine (s := acceptCommand 0x04 s) hwf ho).sameByte
  case shortvec => exact (untouched_plotLine (s := acceptCommand 0x05 s) hwf ho).sameByte
  case fastline =>
    split
    · rw [runFastline_eq_plotLine]
      exact (untouched_plotLine (s := acceptCommand 0x06 s) hwf ho).sameByte
    · rfl

end Sys2Proof.Machine
end

section
/-!
PROOFS. What no step changes: the configuration (R290) and the IRQ output, which nothing asserts (R274).
Every act of the host keeps both. And the reset: the state it leaves, read off field by field (R291, R294).
-/

namespace Sys2Proof.Machine

/-! ## The configuration and the IRQ output -/

/-- The configuration is this one, and the IRQ output is deasserted. -/
structure QuietUnder (cfg : Config) (s : State) : Prop where
  cfg_eq : s.cfg = cfg
  irqLow : s.irq = false

/-- A command moves video memory, the dirty bitmap, the engine and its own register only (D43). -/
theorem QuietUnder.commandWrite {cfg : Config} {s : State} (h : QuietUnder cfg s) (b : Byte) :
    QuietUnder cfg (commandWrite b s) := by
  rw [commandWrite_frame b s]
  exact { h with }

theorem QuietUnder.regWriteByte {cfg : Config} {s : State} (h : QuietUnder cfg s) (o b : Byte) :
    QuietUnder cfg (regWriteByte o b s) := by
  rcases regWriteByte_cases o b s with ⟨-, hcommand⟩ | hframe
  · rw [hcommand]
    exact h.commandWrite b
  · rw [hframe]
    exact { h with }

theorem QuietUnder.commandRopWrite {cfg : Config} {s : State} (h : QuietUnder cfg s) (v : Word) :
    QuietUnder cfg (commandRopWrite v s) := by
  rw [commandRopWrite_eq_bytes]
  exact (h.regWriteByte _ _).regWriteByte _ _

theorem QuietUnder.vgaWriteByte {cfg : Config} {s : State} (h : QuietUnder cfg s) (p : VgaPort) (b : Byte) :
    QuietUnder cfg (vgaWriteByte p b s) := by
  rw [vgaWriteByte_frame]
  exact { h with }

theorem QuietUnder.feed {cfg : Config} {s : State} (h : QuietUnder cfg s) (bs : List Byte) :
    QuietUnder cfg (feed bs s) := by
  rw [feed_sameButEngine bs s]
  exact { h with }

/-- A reset attaches the block in its own configuration, with the output deasserted (R290, R291). -/
theorem QuietUnder.act {cfg : Config} {s t : State} (h : QuietUnder cfg s) (ha : Act s t) : QuietUnder cfg t := by
  have hreg : ∀ o b s, QuietUnder cfg s → QuietUnder cfg (Machine.regWriteByte o b s) :=
    fun o b _ hs => hs.regWriteByte o b
  have hport : ∀ p b s, QuietUnder cfg s → QuietUnder cfg (Machine.vgaWriteByte p b s) :=
    fun p b _ hs => hs.vgaWriteByte p b
  have hword : ∀ v s, QuietUnder cfg s → QuietUnder cfg (Machine.commandRopWrite v s) :=
    fun v _ hs => hs.commandRopWrite v
  cases ha with
  | windowByte o b => exact h.regWriteByte o b
  | commandWord v => exact h.commandRopWrite v
  | portByte p b => exact h.vgaWriteByte p b
  | ioWrite q n v => exact ioWrite_keeps hreg hport hword q n v h
  | memWrite a n v ht =>
    exact memWrite_keeps (fun _ _ _ _ hs => { hs with }) hreg hport hword (fun bs _ hs => hs.feed bs) h ht
  | read | modeUpdate | pciEvent | clearDirty => exact { h with }
  | reset => exact ⟨h.cfg_eq, rfl⟩
  | nothing => exact h

/-- Settles O60: a step takes the next record from the queue and performs one act, and every act keeps both. -/
theorem stepKeepsConfigurationAndIrq : Obligations.StepKeepsConfigurationAndIrq := by
  unfold Obligations.StepKeepsConfigurationAndIrq
  intro s t hst hirq
  rcases step_cases hst with ⟨-, rfl⟩ | ⟨tx, ts, i, -, -, hexec⟩
  · exact ⟨rfl, hirq⟩
  · have hfetched : QuietUnder s.cfg { s with pending := ts } := ⟨rfl, hirq⟩
    obtain ⟨hcfg, hlow⟩ := hfetched.act (exec_act hexec)
    exact ⟨hcfg, hlow⟩

/-! ## Cleared register banks -/

/-- Every byte of the three register banks is zero, as after attach (R32, R291). -/
def BanksCleared (s : State) : Prop := ∀ b i, bankByte s b i = 0

/-- A field bound to a cleared bank is zero, wherever it is bound (R34). -/
theorem BanksCleared.bankField {s : State} (h : BanksCleared s) (l : BitLoc) (w : Nat) : bankField s l w = 0 := by
  simp [Machine.bankField, h l.bank l.index]

theorem BanksCleared.linEn {s : State} (h : BanksCleared s) : linEn s = false := by
  rw [Machine.linEn, h.bankField]
  rfl

theorem BanksCleared.mmioEn {s : State} (h : BanksCleared s) : mmioEn s = false := by
  rw [Machine.mmioEn, h.bankField]
  rfl

theorem BanksCleared.mapSel {s : State} (h : BanksCleared s) : mapSel s = 0 := h.bankField _ _

theorem BanksCleared.accelSel {s : State} (h : BanksCleared s) : accelSel s = 0 := h.bankField _ _

/-- A bound sub-mode of value zero is the normal one, as an unbound one is (R34; notes/assumptions/10.md). -/
theorem BanksCleared.subMode {s : State} (h : BanksCleared s) : subMode s = .normal := by
  by_cases hgen : s.cfg.gen = .gen0
  · cases hbound : s.cfg.binding.subMode with
    | none => exact subMode_of_unbound hbound
    | some l => simp [subMode_of_bound hgen hbound, h l.loc.bank l.loc.index]
  · exact subMode_of_not_gen0 hgen

/-- Off PCI cleared banks leave the banked window open at its widest, and nothing else (R172, R174, R179). -/
theorem BanksCleared.mapOf_offPci {s : State} (h : BanksCleared s) (hpci : s.cfg.isPci = false) :
    mapOf s = [⟨.banked, 0xA0000, 0x20000⟩] := by
  simp [mapOf, memEnabled, hpci, h.linEn, h.mmioEn, h.accelSel, h.mapSel, bankedWindow_eq]

/-! ## The state after a reset -/

/-- What `reset()` leaves: the block attached again in its configuration, the model's own host side as it was (R290,
R291; notes/assumptions/17.md). -/
def afterReset (s : State) : State :=
  { State.attach s.cfg with readData := s.readData, draws := s.draws, pending := s.pending }

theorem exec_reset (s : State) : exec .reset s = .next (afterReset s) := rfl

theorem afterReset_banksCleared (s : State) : BanksCleared (afterReset s) := by
  intro b i
  cases b <;> exact Vector.getElem_replicate _

theorem patByte_afterReset (s : State) (j : BitVec 7) : patByte (afterReset s) j = 0 := Vector.getElem_replicate _

theorem pat32Byte_afterReset (s : State) (j : Byte) : pat32Byte (afterReset s) j = 0 := Vector.getElem_replicate _

/-- Bank registers of zero select the start of video memory, whatever the granule (R33). -/
theorem writeBank_afterReset (s : State) : writeBank (afterReset s) = 0 := BitVec.zero_mul

theorem readBank_afterReset (s : State) : readBank (afterReset s) = 0 := BitVec.zero_mul

/-- On PCI the memory space is closed and both bases are zero (R291). -/
theorem afterReset_bus_pci {s : State} (hpci : s.cfg.isPci = true) :
    (afterReset s).pciMemEn = false ∧ (afterReset s).linearBase = 0 ∧ (afterReset s).mmioBase = 0 ∧
      mapOf (afterReset s) = [] := by
  have hclosed : (afterReset s).pciMemEn = false := congrArg (!·) hpci
  have hdisabled : memEnabled (afterReset s) = false := by
    show (!s.cfg.isPci || (afterReset s).pciMemEn) = false
    rw [hpci, hclosed]
    rfl
  exact ⟨hclosed, if_pos hpci, rfl, mapOf_of_disabled hdisabled⟩

/-- Off PCI the memory space is always open, and the linear base is the board's (R35, R291). -/
theorem afterReset_bus_offPci {s : State} (hpci : s.cfg.isPci = false) :
    (afterReset s).pciMemEn = true ∧ (afterReset s).linearBase = s.cfg.vlbLinearBase ∧
      mapOf (afterReset s) = [⟨.banked, 0xA0000, 0x20000⟩] :=
  ⟨congrArg (!·) hpci, if_neg (Bool.eq_false_iff.mp hpci), (afterReset_banksCleared s).mapOf_offPci hpci⟩

/-- Settles O56: the fields that are stored hold their attach values by definition; what is read through the banks and
the bus fields is the lemmas above. -/
theorem resetGivesAttachValues : Obligations.ResetGivesAttachValues := by
  unfold Obligations.ResetGivesAttachValues
  intro s
  have hbanks := afterReset_banksCleared s
  exact ⟨afterReset s, exec_reset s, rfl,
    rfl, rfl, rfl, rfl, rfl, rfl, rfl, rfl, rfl, rfl, rfl, rfl, rfl, rfl, rfl, rfl, rfl, rfl,
    patByte_afterReset s, pat32Byte_afterReset s, rfl, rfl, rfl,
    hbanks, rfl, rfl, rfl, rfl, rfl, writeBank_afterReset s, readBank_afterReset s,
    hbanks.linEn, hbanks.mapSel, hbanks.accelSel, hbanks.mmioEn, hbanks.subMode,
    afterReset_bus_pci, afterReset_bus_offPci,
    rfl, rfl, rfl, rfl, rfl, rfl, rfl, rfl, rfl⟩

/-- The reference configuration draws every byte of video memory as 0x00: no cell is listed (notes/assumptions/6.md). -/
theorem configWf_reference : ConfigWf Config.reference := ⟨Memory.wf_nil, List.forall_mem_nil _⟩

/-- Settles O57: the state after reset is an attach, and an attach in a well-formed configuration is well-formed. -/
theorem resetStateIsWellFormed : Obligations.ResetStateIsWellFormed := by
  unfold Obligations.ResetStateIsWellFormed
  exact StateWf.attach configWf_reference

end Sys2Proof.Machine
end
